-- ==== Sys2Proof/Word.lean ====
section
/-! DEFINITION. The words of BMC-RTS: the widths of 00_scope R6 and R9. -/

namespace Sys2Proof

/-- One 16-bit command word (R9, R100). -/
abbrev Word := BitVec 16

/-- A data byte, an address byte or the eight data lines (R6). -/
abbrev Byte := BitVec 8

/-- A register index or a chip address (R6). -/
abbrev Nibble := BitVec 4

/-- A bus mode (BDIR, BC2, BC1), BDIR in bit 2 (R12). -/
abbrev ModeCode := BitVec 3

end Sys2Proof
end

