-- ==== Sys2Proof/Config.lean ====
section
/-! DEFINITION. What is fixed at construction (00_scope R7) and the values no rule gives (10_state R44,
93_implementation_defined U12, U19). -/

namespace Sys2Proof

/-- The topology variant (R3): A has two inactive states, B one. -/
inductive Variant where
  | a
  | b
  deriving DecidableEq, Repr

/-- The three bus control lines (R15, BusLine). -/
inductive Line where
  | bdir
  | bc2
  | bc1
  deriving DecidableEq, Repr

/-- The configuration parameters of R7. `clockConn` and `addrselConn` are read by no rule. -/
structure Config where
  variant : Variant
  bdirConn : Bool
  bc2Conn : Bool
  bc1Conn : Bool
  /-- `DATA_CONN`: bit i says that data line Di has a pin. -/
  dataConn : Byte
  resetConn : Bool
  clockConn : Bool
  addrselConn : Bool
  coarseEdgesOk : Bool
  scanReg : Nibble := 11
  scanSentinel : Byte := 0x7A
  deriving DecidableEq, Repr

/-- Config A0 of 95_test_vectors, the spec's default configuration for Variant A. A0 names neither
`CLOCK_CONN` nor `ADDRSEL_CONN`: false here, DESIGN CHOICE (log entry 1). -/
def Config.a0 : Config where
  variant := .a
  bdirConn := true
  bc2Conn := true
  bc1Conn := true
  dataConn := 0xFF
  resetConn := true
  clockConn := false
  addrselConn := false
  coarseEdgesOk := false

/-- Config B0 of 95_test_vectors, the spec's default configuration for Variant B (log entry 1 for the two
parameters it does not name). -/
def Config.b0 : Config where
  variant := .b
  bdirConn := true
  bc2Conn := false
  bc1Conn := true
  dataConn := 0xFF
  resetConn := false
  clockConn := false
  addrselConn := false
  coarseEdgesOk := true

/-- FREE VALUE: the bus oracle of R44. The n-th bit drawn from a bus on which no reference responder answers
is `busOracle n`; nothing constrains it (log entry 4). -/
opaque Config.busOracle : Nat → Bool

/-- FREE VALUE: what the output latch would drive before its first write (U19, "any value, never
observable"; log entry 8). -/
opaque Config.latchBeforeFirstDrive : Byte

end Sys2Proof
end

