-- ==== Sys2Proof/Syntax.lean ====
section
/-! DEFINITION. The commands of BMC-RTS: one constructor per row of spec/opcode_table.json (30_encoding R103,
R111). -/

namespace Sys2Proof

/-- The 22 commands. `XFER from, to` is represented by its ten legal pairs, the edge rows of R95 and R96. -/
inductive Instr where
  | begin
  | latch (r : Nibble)
  | write (r : Nibble) (d : Byte)
  | read (r : Nibble)
  | wtr (r : Nibble) (d : Byte)
  | setca (d : Byte)
  | getca
  | findca
  | m010to000
  | m000to001
  | m001to000
  | m000to010
  | m010to110
  | m110to010
  | m010to011
  | m011to010
  | m010to111
  | m111to010
  | setmode (m : ModeCode)
  | busout (d : Byte)
  | busin
  | bussample
  deriving DecidableEq, Repr

/-- The decoder's refusal codes (R254). -/
inductive RefusalCode where
  /-- 0x11: op is 0xD, 0xE or 0xF (R105). -/
  | reservedOp
  /-- 0x12: a must-be-zero field is not zero (R104). -/
  | nonzeroMbz
  /-- 0x13: XFER with a pair outside the variant's edge table (R107). -/
  | noSuchEdge
  /-- 0x14: SETMODE without `COARSE_EDGES_OK` (R108). -/
  | setmodeUnavailable
  /-- 0x15: SETMODE to a code outside the variant (R108). -/
  | notAMode
  deriving DecidableEq, Repr

end Sys2Proof
end

