-- ==== Sys2Proof/Machine/State.lean ====
section
/-! DEFINITION. The state of BMC-RTS (10_state R24 to R36), its configuration (R7), the events (R45), the reference
responder's data (20_memory R75, R76), and the reset state (R48). Plain data only. -/

namespace Sys2Proof.Machine

/-- `dbus_dir` (R27): IN is high impedance, OUT drives. -/
inductive BusDir where
  | input
  | output
  deriving DecidableEq, Repr

/-- Which end of a critical section a CRIT event marks (R45). -/
inductive CritEdge where
  | enter
  | exit
  deriving DecidableEq, Repr

/-- The events of a trace (R45). A set of lines is a list in the order BDIR, BC2, BC1. -/
inductive Event where
  | ctl (set : List (Line × Bool))
  /-- `MODE(from, to)`; `from` is `none` for ⊥ at the first BEGIN (R241). -/
  | mode (src : Option ModeCode) (dst : ModeCode)
  | dir (d : BusDir)
  | drive (v : Byte)
  | sample (i : Fin 8) (b : Bool)
  | crit (edge : CritEdge) (ie : Bool)
  | holdWrite
  | resetPulse
  | initCtl (set : List (Line × Bool))
  deriving DecidableEq, Repr

/-- The fault codes (R256). -/
inductive FaultCode where
  /-- 0x21: a bus command before BEGIN. -/
  | notBegun
  /-- 0x22: XFER whose `from` is not the current mode. -/
  | modeMismatch
  /-- 0x23: a transaction started away from REST. -/
  | notResting
  /-- 0x24: READ_DATA entered with the bus OUT, or BUSOUT in READ_DATA. -/
  | busContention
  /-- 0x25: LATCH_ADDR or WRITE_DATA entered with the bus IN, or BUSIN in either. -/
  | undrivenBus
  /-- 0x26: BUSOUT in LATCH_ADDR or WRITE_DATA. -/
  | busChangeInPulse
  /-- 0x27: BUSSAMPLE with the bus OUT. -/
  | sampleWhileDriving
  deriving DecidableEq, Repr

/-- `stop` (R34). -/
inductive Stop where
  | run
  | fault (c : FaultCode)
  | refused (c : RefusalCode)
  deriving DecidableEq, Repr

/-- `resp` (R36). -/
inductive Response where
  | none
  | byte (v : Byte)
  | found (v : Byte)
  | notFound
  deriving DecidableEq, Repr

/-- What the host does next (R20, R40, R47): present a command word, or change its own interruptibility. -/
inductive HostInput where
  | command (w : Word)
  | setIe (b : Bool)
  deriving DecidableEq, Repr

/-- Bytes by address: addresses strictly rising, no zero byte listed; an unlisted address reads as 0, the value of
every register of the reference responder after a reset pulse (R81). -/
abbrev Memory := List Host.Cell

/-- The reference responder (R75, R76): its three parameters, its latched address and its register file. -/
structure Responder where
  /-- `RR_ADDR`. -/
  addr : Nibble
  /-- `RR_FLOAT`. -/
  float : Byte := 0xFF
  /-- `RR_MASK`. -/
  mask : Bool := true
  /-- `la`. -/
  la : Byte := 0
  /-- `RR[0..15]`, keyed by register index. -/
  regs : Memory := []
  deriving DecidableEq, Repr

/-- The whole state. The first field is the configuration, which no step writes (R23); then the twelve fields of R24;
then the model's view of the trace (R45), of the host's coming inputs (R20, R40), of the bus environment (R44, R75)
and the count of free bits drawn (log entry 4). -/
@[ext]
structure State where
  cfg : Config
  /-- R25: BEGIN has run. -/
  init : Bool
  /-- R26: the current bus mode; `none` is ⊥. -/
  mode : Option ModeCode
  /-- R27. -/
  dbusDir : BusDir
  /-- R28: the output latch; `none` is ⊥. -/
  dbusOut : Option Byte
  /-- R29: the chip address nibble. -/
  ca : Nibble
  /-- R30: the host's interruptibility. -/
  hostIe : Bool
  /-- R31: saved at critical-section entry; `none` is ⊥. -/
  ieSaved : Option Bool
  /-- R31. -/
  crit : Bool
  /-- R32: events the command has emitted so far. -/
  upc : Nat
  /-- R33: FINDCA's candidate counter. -/
  cand : BitVec 5
  /-- R34. -/
  stop : Stop
  /-- R36: the last command's response. -/
  resp : Response
  /-- R45: every event since construction, oldest first; a command's own trace is what it appends (log entry 6). -/
  trace : List Event
  /-- What the host does next, first input first (log entry 3). -/
  port : List HostInput
  /-- The reference responder, if that is what stands on the bus; `none`: sampled bits are free (log entry 7). -/
  responder : Option Responder
  /-- How many free oracle bits have been drawn (log entry 4). -/
  draws : Nat
  deriving DecidableEq, Repr

/-- Why the model has no next state. -/
inductive Fault where
  /-- Raised by every command and every step in a block whose `stop` is not RUN: the spec gives it no further step
  (R34, R258, R264). Safe: the model stops where the spec says nothing more happens. -/
  | stopped (why : Stop)
  deriving DecidableEq, Repr

/-- Why the model refuses. The decoder's refusals of R254 are NOT here: the spec gives them an effect on `stop`
(R253), so they are next states. -/
inductive Refusal where
  /-- An instruction without a meaning yet; raised only by arms of `exec`. Safe: nothing is claimed of it. -/
  | notModelled (mnemonic : String)
  deriving DecidableEq, Repr

/-- The state at construction (R48) under Config A0 (log entry 1) with the host's interruptibility 1
(log entry 2), no input presented (log entry 3) and no reference responder attached (log entry 7). -/
def State.reset : State where
  cfg := Config.a0
  init := false
  mode := none
  dbusDir := .input
  dbusOut := none
  ca := 0
  hostIe := true
  ieSaved := none
  crit := false
  upc := 0
  cand := 0
  stop := .run
  resp := .none
  trace := []
  port := []
  responder := none
  draws := 0

end Sys2Proof.Machine
end

