-- ==== Sys2Proof/Machine/Memory.lean ====
section
/-! DEFINITION. Bytes by address in one canonical form: the register file of the reference responder (20_memory
R76, R81). -/

namespace Sys2Proof.Machine

/-- What an unlisted address reads as (R81). -/
def Memory.unlisted : Byte := 0

/-- The byte at address `a`. -/
def Memory.read : Memory → Nat → Byte
  | [], _ => Memory.unlisted
  | (k, v) :: rest, a => if k = a then v else Memory.read rest a

/-- `cell` put in front of `rest`, unless it holds what an unlisted address reads as. -/
def Memory.put (a : Nat) (b : Byte) (rest : Memory) : Memory :=
  if b = Memory.unlisted then rest else (a, b) :: rest

/-- The memory after storing `b` at `a`; keeps the canonical form. -/
def Memory.write : Memory → Nat → Byte → Memory
  | [], a, b => Memory.put a b []
  | (k, v) :: rest, a, b =>
    if a < k then Memory.put a b ((k, v) :: rest)
    else if a = k then Memory.put a b rest
    else (k, v) :: Memory.write rest a b

/-- Every address listed is at least `lo`, they rise strictly, and no listed byte is the unlisted one. -/
def Memory.wfFrom (lo : Nat) : Memory → Bool
  | [] => true
  | (k, v) :: rest => decide (lo ≤ k) && decide (v ≠ Memory.unlisted) && Memory.wfFrom (k + 1) rest

/-- The canonical form. -/
def Memory.wf (m : Memory) : Bool := Memory.wfFrom 0 m

end Sys2Proof.Machine
end

