-- ==== Sys2Proof/Machine/Modes.lean ====
section
/-! DEFINITION. Bus-mode codes, classes and the two edge tables (30_encoding R90 to R99). -/

namespace Sys2Proof.Machine

/-- REST = 010 in both variants (R93). -/
def rest : ModeCode := 0b010#3

/-- READ_DATA = 011 in both variants (R90, R91). -/
def readData : ModeCode := 0b011#3

/-- WRITE_DATA = 110 in both variants (R90, R91). -/
def writeData : ModeCode := 0b110#3

/-- LATCH_ADDR: 001 in Variant A, 111 in Variant B (R90, R91). -/
def latchAddr : Variant → ModeCode
  | .a => 0b001#3
  | .b => 0b111#3

/-- The codes of class inactive (R90, R91). -/
def inactiveModes : Variant → List ModeCode
  | .a => [0b000#3, 0b010#3]
  | .b => [0b010#3]

/-- `isInactive(m)` (R92). -/
def isInactive (v : Variant) (m : ModeCode) : Bool := (inactiveModes v).contains m

/-- `isLatch(m)` (R92). -/
def isLatch (v : Variant) (m : ModeCode) : Bool := m == latchAddr v

/-- `isRead(m)` (R92). -/
def isRead (m : ModeCode) : Bool := m == readData

/-- `isWrite(m)` (R92). -/
def isWrite (m : ModeCode) : Bool := m == writeData

/-- `named(m)`: m is one of the variant's codes (R92). -/
def named (v : Variant) (m : ModeCode) : Bool :=
  isInactive v m || isLatch v m || isRead m || isWrite m

/-- `bit(l)` (R12). -/
def lineBit : Line → Nat
  | .bdir => 2
  | .bc2 => 1
  | .bc1 => 0

/-- The level mode `m` gives line `l`. -/
def levelOf (m : ModeCode) (l : Line) : Bool := m.getLsbD (lineBit l)

/-- The lines in the order in which the spec lists a set of them (95_test_vectors, Conventions). -/
def allLines : List Line := [.bdir, .bc2, .bc1]

/-- `hd(m1, m2)`, the Hamming distance (R12). -/
def hd (m₁ m₂ : ModeCode) : Nat :=
  (allLines.filter fun l => levelOf m₁ l != levelOf m₂ l).length

/-- `lines(from, to)` (R98): each line whose level changes, with its new level. -/
def lines (src dst : ModeCode) : List (Line × Bool) :=
  (allLines.filter fun l => levelOf src l != levelOf dst l).map fun l => (l, levelOf dst l)

/-- One row of an edge table: the directed pair and the command that takes it. -/
structure Edge where
  src : ModeCode
  dst : ModeCode
  cmd : Instr
  deriving DecidableEq, Repr

/-- The Variant A table E_A, EA1 to EA8 (R95). -/
def edgesA : List Edge :=
  [⟨0b010#3, 0b000#3, .m010to000⟩, ⟨0b000#3, 0b001#3, .m000to001⟩, ⟨0b001#3, 0b000#3, .m001to000⟩,
   ⟨0b000#3, 0b010#3, .m000to010⟩, ⟨0b010#3, 0b110#3, .m010to110⟩, ⟨0b110#3, 0b010#3, .m110to010⟩,
   ⟨0b010#3, 0b011#3, .m010to011⟩, ⟨0b011#3, 0b010#3, .m011to010⟩]

/-- The Variant B table E_B, EB1 to EB6 (R96). -/
def edgesB : List Edge :=
  [⟨0b010#3, 0b110#3, .m010to110⟩, ⟨0b110#3, 0b010#3, .m110to010⟩, ⟨0b010#3, 0b011#3, .m010to011⟩,
   ⟨0b011#3, 0b010#3, .m011to010⟩, ⟨0b010#3, 0b111#3, .m010to111⟩, ⟨0b111#3, 0b010#3, .m111to010⟩]

/-- `E(VARIANT)` (R106). -/
def edges : Variant → List Edge
  | .a => edgesA
  | .b => edgesB

/-- The row of the variant's table for the pair (from, to), if it is an edge. -/
def findEdge (v : Variant) (src dst : ModeCode) : Option Edge :=
  (edges v).find? fun e => e.src == src && e.dst == dst

/-- `(from, to) ∈ E(VARIANT)`. -/
def hasEdge (v : Variant) (src dst : ModeCode) : Bool := (findEdge v src dst).isSome

end Sys2Proof.Machine
end

