-- ==== Sys2Proof/Machine/Responder.lean ====
section
/-! DEFINITION. The register map (20_memory R63) and the reference responder's behaviour (R77 to R82). -/

namespace Sys2Proof.Machine

/-- One row of the register map (R63). -/
structure RegRow where
  name : String
  width : Nat
  deriving DecidableEq, Repr

/-- The register map (R63), index 0 first. -/
def registerMap : List RegRow :=
  [⟨"Tone A fine", 8⟩, ⟨"Tone A coarse", 4⟩, ⟨"Tone B fine", 8⟩, ⟨"Tone B coarse", 4⟩,
   ⟨"Tone C fine", 8⟩, ⟨"Tone C coarse", 4⟩, ⟨"Noise period", 5⟩, ⟨"Mixer/enable", 8⟩,
   ⟨"Amplitude A", 5⟩, ⟨"Amplitude B", 5⟩, ⟨"Amplitude C", 5⟩, ⟨"Envelope period fine", 8⟩,
   ⟨"Envelope period coarse", 8⟩, ⟨"Envelope shape/cycle", 4⟩, ⟨"I/O port A", 8⟩, ⟨"I/O port B", 8⟩]

/-- `W(r)` (R63). -/
def regWidth (r : Nibble) : Nat :=
  match registerMap[r.toNat]? with
  | some row => row.width
  | none => 8

/-- `mask(r) = (1 << W(r)) - 1` (R63). -/
def regMask (r : Nibble) : Byte := BitVec.ofNat 8 (2 ^ regWidth r - 1)

/-- `RR[r]`. -/
def Responder.reg (rr : Responder) (r : Nibble) : Byte := rr.regs.read r.toNat

/-- The chip-address half of the latched address, `la[7:4]`. -/
def Responder.laChip (rr : Responder) : Nibble := rr.la.extractLsb' 4 4

/-- The register half of the latched address, `la[3:0]`. -/
def Responder.laReg (rr : Responder) : Nibble := rr.la.extractLsb' 0 4

/-- The latched address selects this responder (R79, R80). -/
def Responder.selected (rr : Responder) : Bool := rr.laChip == rr.addr

/-- `seen` (R77): the driven lines at their level, every other line at `RR_FLOAT`. -/
def Responder.seen (rr : Responder) (driven level : Byte) : Byte :=
  (level &&& driven) ||| (rr.float &&& ~~~driven)

/-- What the responder keeps of a byte written to register `r` (R79). -/
def Responder.kept (rr : Responder) (r : Nibble) (b : Byte) : Byte :=
  if rr.mask then b &&& regMask r else b

/-- The entry into LATCH_ADDR (R78). -/
def Responder.latch (rr : Responder) (b : Byte) : Responder := { rr with la := b }

/-- The entry into WRITE_DATA (R79). -/
def Responder.store (rr : Responder) (b : Byte) : Responder :=
  if rr.selected then { rr with regs := rr.regs.write rr.laReg.toNat (rr.kept rr.laReg b) } else rr

/-- RESET_PULSE (R81). -/
def Responder.clear (rr : Responder) : Responder := { rr with la := 0, regs := [] }

/-- The responder's reaction to one event, with the lines the block drives and their levels (R78 to R82). -/
def Responder.observe (v : Variant) (driven level : Byte) (e : Event) (rr : Responder) : Responder :=
  match e with
  | .mode _ dst =>
    if isLatch v dst then rr.latch (rr.seen driven level)
    else if isWrite dst then rr.store (rr.seen driven level)
    else rr
  | .resetPulse => rr.clear
  | .ctl _ => rr
  | .dir _ => rr
  | .drive _ => rr
  | .sample _ _ => rr
  | .crit _ _ => rr
  | .holdWrite => rr
  | .initCtl _ => rr

/-- The bit the responder answers on line i (R80). -/
def Responder.answer (rr : Responder) (mode : Option ModeCode) (i : Nat) : Bool :=
  if mode = some readData ∧ rr.selected then (rr.reg rr.laReg).getLsbD i else rr.float.getLsbD i

end Sys2Proof.Machine
end

