-- ==== Sys2Proof/Machine/Ops.lean ====
section
/-! DEFINITION. The named operations over the state: events and what they do to the environment (00_scope R13,
10_state R42 to R45), and the one path every command takes through its checks, its stops and its response
(60_exceptions R253, R255, R258). -/

namespace Sys2Proof.Machine

/-- Whether line `l` has a physical pin, `CTL_CONN[l]` (R7). -/
def ctlConn (cfg : Config) : Line → Bool
  | .bdir => cfg.bdirConn
  | .bc2 => cfg.bc2Conn
  | .bc1 => cfg.bc1Conn

/-- The pairs of `set` whose line has a pin (R13, CtlDrive). -/
def connectedOnly (cfg : Config) (set : List (Line × Bool)) : List (Line × Bool) :=
  set.filter fun p => ctlConn cfg p.1

/-- `p(S.mode)`, false for ⊥. -/
def modeIs (p : ModeCode → Bool) (s : State) : Bool :=
  match s.mode with
  | some m => p m
  | none => false

/-- The data lines the block drives now (R43). -/
def drivenLines (s : State) : Byte :=
  match s.dbusDir with
  | .output => s.cfg.dataConn
  | .input => 0

/-- The level of the output latch; a free value before its first write (U19, log entry 8). -/
def latchLevel (s : State) : Byte :=
  match s.dbusOut with
  | some v => v
  | none => Config.latchBeforeFirstDrive

/-- `emit E` (R13): the event joins the trace, `upc` advances (R183), and the reference responder, if one is
attached, reacts (R78 to R81). -/
def emit (e : Event) (s : State) : State :=
  { s with
    trace := s.trace ++ [e]
    upc := s.upc + 1
    responder := s.responder.map (Responder.observe s.cfg.variant (drivenLines s) (latchLevel s) e) }

/-- `CtlDrive(set)` (R13): one output update; unconnected lines are dropped. -/
def ctlDrive (set : List (Line × Bool)) (s : State) : State :=
  emit (.ctl (connectedOnly s.cfg set)) s

/-- `S.mode <- m`. -/
def setMode (m : ModeCode) (s : State) : State := { s with mode := some m }

/-- `BusDrive(v); S.dbus_out <- v` (R13, R160). -/
def busDrive (v : Byte) (s : State) : State := { emit (.drive v) s with dbusOut := some v }

/-- `BusDir(d); S.dbus_dir <- d` (R13, R160, R162). -/
def setBusDir (d : BusDir) (s : State) : State := { emit (.dir d) s with dbusDir := d }

/-- `Step(from, to)` (R183), the body of XFER without its checks. -/
def edgeStep (src dst : ModeCode) (s : State) : State :=
  setMode dst (emit (.mode (some src) dst) (ctlDrive (lines src dst) s))

/-- The bus oracle's bit for line i and the state after it (R44): the reference responder's answer (R80), or else
the next free bit (log entry 4). -/
def oracleBit (i : Nat) (s : State) : Bool × State :=
  match s.responder with
  | some rr => (rr.answer s.mode i, s)
  | none => (Config.busOracle s.draws, { s with draws := s.draws + 1 })

/-- `Sample(i)` (R13). -/
def sample (i : Fin 8) (s : State) : Bool × State :=
  let p := oracleBit i.val s
  (p.1, emit (.sample i p.1) p.2)

/-- `respond(r)`, which ends a command: `upc` returns to 0 (R32, R36). -/
def respond (r : Response) (s : State) : State := { s with resp := r, upc := 0 }

/-- TAKING A FAULT (R255): only `stop` changes. There is no handler and no return (R263, R264). -/
def raiseFault (c : FaultCode) (s : State) : State := { s with stop := .fault c }

/-- TAKING A REFUSAL (R253): only `stop` changes. -/
def refuse (c : RefusalCode) (s : State) : State := { s with stop := .refused c }

/-- The order of checks of R258, for every command: a stopped block has no step; then the decoder's verdict on this
command, `refusal`; then the command's preconditions, `fault`; then the command's effect. -/
def command (refusal : State → Option RefusalCode) (fault : State → Option FaultCode) (effect : State → State)
    (s : State) : Host.Outcome State Fault Refusal :=
  match s.stop with
  | .run =>
    match refusal s with
    | some c => .next (refuse c s)
    | none =>
      match fault s with
      | some c => .next (raiseFault c s)
      | none => .next (effect s)
  | .fault c => .fault (.stopped (.fault c))
  | .refused c => .fault (.stopped (.refused c))

/-- The verdict of a command that the decoder accepts under every configuration. -/
def neverRefused (_ : State) : Option RefusalCode := none

/-- The precondition of a command that raises no fault (R256: BEGIN, SETCA, GETCA). -/
def neverFaults (_ : State) : Option FaultCode := none

/-- The NOT_BEGUN check, then the checks that follow it (R258, R260). -/
def afterBegun (rest : State → Option FaultCode) (s : State) : Option FaultCode :=
  if s.init = false then some .notBegun else rest s

/-- PhaseCheck(to) (R132). -/
def phaseCheck (dst : ModeCode) (s : State) : Option FaultCode :=
  if isRead dst = true ∧ s.dbusDir = .output then some .busContention
  else if (isLatch s.cfg.variant dst = true ∨ isWrite dst = true) ∧ s.dbusDir = .input then some .undrivenBus
  else none

end Sys2Proof.Machine
end

