-- ==== Sys2Proof/Machine/Begin.lean ====
section
/-! DEFINITION. BEGIN (44_begin). -/

namespace Sys2Proof.Machine

/-- The connected control lines at REST levels (R241). -/
def restLevels (cfg : Config) : List (Line × Bool) :=
  connectedOnly cfg (allLines.map fun l => (l, levelOf rest l))

/-- The MODE event of BEGIN, emitted only when the mode is not REST already (R241, R242). -/
def emitReturnToRest (s : State) : State :=
  if s.mode = some rest then s else emit (.mode s.mode rest) s

/-- The reset pulse, if the reset line has a pin (R240). -/
def resetPulse (s : State) : State :=
  if s.cfg.resetConn then emit .resetPulse s else s

/-- `S.init <- 1` (R25). -/
def setInit (s : State) : State := { s with init := true }

/-- BEGIN's sequence (R241). -/
def initialise (s : State) : State :=
  setInit (resetPulse (setBusDir .input (setMode rest (emitReturnToRest (emit (.initCtl (restLevels s.cfg)) s)))))

/-- BEGIN (R241); legal in every state with `stop` = RUN. -/
def execBegin (s : State) : Host.Outcome State Fault Refusal :=
  command neverRefused neverFaults (fun s => respond .none (initialise s)) s

end Sys2Proof.Machine
end

