-- ==== Sys2Proof/Machine/BusMode.lean ====
section
/-! DEFINITION. The Bus Mode Controller's commands: XFER, one meaning per edge, and SETMODE (40_bus_mode). -/

namespace Sys2Proof.Machine

/-- The decoder's verdict on `XFER from, to` (R106 step 4, R107). -/
def xferRefusal (src dst : ModeCode) (s : State) : Option RefusalCode :=
  if hasEdge s.cfg.variant src dst then none else some .noSuchEdge

/-- XFER's preconditions after NOT_BEGUN (R130, R258). -/
def xferFault (src dst : ModeCode) (s : State) : Option FaultCode :=
  if s.mode ≠ some src then some .modeMismatch else phaseCheck dst s

/-- `XFER from, to` (R130). -/
def xfer (src dst : ModeCode) (s : State) : Host.Outcome State Fault Refusal :=
  command (xferRefusal src dst) (afterBegun (xferFault src dst))
    (fun s => respond .none (edgeStep src dst s)) s

/-- M010TO000, EA1 (R133). -/
def execM010to000 (s : State) : Host.Outcome State Fault Refusal := xfer 0b010#3 0b000#3 s

/-- M000TO001, EA2 (R134). -/
def execM000to001 (s : State) : Host.Outcome State Fault Refusal := xfer 0b000#3 0b001#3 s

/-- M001TO000, EA3 (R135). -/
def execM001to000 (s : State) : Host.Outcome State Fault Refusal := xfer 0b001#3 0b000#3 s

/-- M000TO010, EA4 (R136). -/
def execM000to010 (s : State) : Host.Outcome State Fault Refusal := xfer 0b000#3 0b010#3 s

/-- M010TO110, EA5 and EB1 (R137). -/
def execM010to110 (s : State) : Host.Outcome State Fault Refusal := xfer 0b010#3 0b110#3 s

/-- M110TO010, EA6 and EB2 (R138). -/
def execM110to010 (s : State) : Host.Outcome State Fault Refusal := xfer 0b110#3 0b010#3 s

/-- M010TO011, EA7 and EB3 (R139). -/
def execM010to011 (s : State) : Host.Outcome State Fault Refusal := xfer 0b010#3 0b011#3 s

/-- M011TO010, EA8 and EB4 (R140). -/
def execM011to010 (s : State) : Host.Outcome State Fault Refusal := xfer 0b011#3 0b010#3 s

/-- M010TO111, EB5, coarse (R141). -/
def execM010to111 (s : State) : Host.Outcome State Fault Refusal := xfer 0b010#3 0b111#3 s

/-- M111TO010, EB6, coarse (R142). -/
def execM111to010 (s : State) : Host.Outcome State Fault Refusal := xfer 0b111#3 0b010#3 s

/-- The decoder's verdict on `SETMODE m` (R106 step 3, R108). -/
def setmodeRefusal (m : ModeCode) (s : State) : Option RefusalCode :=
  if s.cfg.coarseEdgesOk = false then some .setmodeUnavailable
  else if named s.cfg.variant m then none
  else some .notAMode

/-- SETMODE's preconditions after NOT_BEGUN: none where the mode is already m (R145). -/
def setmodeFault (m : ModeCode) (s : State) : Option FaultCode :=
  if s.mode = some m then none else phaseCheck m s

/-- `lines(S.mode, m)` (R98). From ⊥ every line: a begun block is never there (R26; log entry 15). -/
def linesFrom (src : Option ModeCode) (dst : ModeCode) : List (Line × Bool) :=
  match src with
  | some m => lines m dst
  | none => allLines.map fun l => (l, levelOf dst l)

/-- SETMODE's change of mode (R145): one output update, or nothing where the mode is already m. -/
def coarseChange (m : ModeCode) (s : State) : State :=
  if s.mode = some m then s
  else setMode m (emit (.mode s.mode m) (ctlDrive (linesFrom s.mode m) s))

/-- SETMODE m (R145). -/
def execSetmode (m : ModeCode) (s : State) : Host.Outcome State Fault Refusal :=
  command (setmodeRefusal m) (afterBegun (setmodeFault m)) (fun s => respond .none (coarseChange m s)) s

end Sys2Proof.Machine
end

