-- ==== Sys2Proof/Machine/DataBus.lean ====
section
/-! DEFINITION. The data-bus drive helper: its procedures and its commands (41_data_bus). -/

namespace Sys2Proof.Machine

/-- BusOut(v) (R160): the latch is written first, and the direction turns only when it was IN. -/
def busOut (v : Byte) (s : State) : State :=
  match s.dbusDir with
  | .input => setBusDir .output (busDrive v s)
  | .output => busDrive v s

/-- BusIn() (R162). -/
def busIn (s : State) : State :=
  match s.dbusDir with
  | .output => setBusDir .input s
  | .input => s

/-- `CFG.DATA_CONN[i] = 1`: line Di has a pin (R7, R165). -/
def lineConnected (cfg : Config) (i : Fin 8) : Bool := cfg.dataConn.getLsbD i.val

/-- Bit i of a sampled byte. -/
def bitAt (i : Fin 8) (b : Bool) : Byte := if b then 1#8 <<< i.val else 0

/-- SampleByte's loop over the lines still to come (R163): a connected line is sampled, any other adds a 0. -/
def sampleLines : List (Fin 8) → Byte → State → Byte × State
  | [], v, s => (v, s)
  | i :: rest, v, s =>
    if lineConnected s.cfg i then
      let p := sample i s
      sampleLines rest (v ||| bitAt i p.1) p.2
    else sampleLines rest v s

/-- D0 first, D7 last (R66). -/
def dataLines : List (Fin 8) := [0, 1, 2, 3, 4, 5, 6, 7]

/-- SampleByte() (R163): the byte read, and the state after it. -/
def sampleByte (s : State) : Byte × State := sampleLines dataLines 0 s

/-- BUSOUT's preconditions after NOT_BEGUN (R161). -/
def busoutFault (s : State) : Option FaultCode :=
  if modeIs isRead s = true then some .busContention
  else if modeIs (isLatch s.cfg.variant) s = true ∨ modeIs isWrite s = true then some .busChangeInPulse
  else none

/-- BUSOUT d (R161). -/
def execBusout (d : Byte) (s : State) : Host.Outcome State Fault Refusal :=
  command neverRefused (afterBegun busoutFault) (fun s => respond .none (busOut d s)) s

/-- BUSIN's preconditions after NOT_BEGUN (R164). -/
def businFault (s : State) : Option FaultCode :=
  if modeIs (isLatch s.cfg.variant) s = true ∨ modeIs isWrite s = true then some .undrivenBus else none

/-- BUSIN (R164). -/
def execBusin (s : State) : Host.Outcome State Fault Refusal :=
  command neverRefused (afterBegun businFault) (fun s => respond .none (busIn s)) s

/-- BUSSAMPLE's precondition after NOT_BEGUN (R167). -/
def bussampleFault (s : State) : Option FaultCode :=
  if s.dbusDir = .output then some .sampleWhileDriving else none

/-- BUSSAMPLE's effect (R167): the sampled byte is the response. -/
def respondSampled (s : State) : State :=
  let p := sampleByte s
  respond (.byte p.1) p.2

/-- BUSSAMPLE (R167). -/
def execBussample (s : State) : Host.Outcome State Fault Refusal :=
  command neverRefused (afterBegun bussampleFault) respondSampled s

end Sys2Proof.Machine
end

