-- ==== Sys2Proof/Machine/Operands.lean ====
section
/-! DEFINITION. How operands become addresses and bytes (20_memory R61, R62; 43_chip_address R220, R223). The block
has no other operand form: no register file, no memory operand, no immediate extension (10_state R37, 30_encoding
R102). -/

namespace Sys2Proof.Machine

/-- The composite address `{ca, r}` as the bitwise OR of R61. -/
def composite (ca r : Nibble) : Byte := (ca.zeroExtend 8 <<< 4) ||| r.zeroExtend 8

/-- The host-visible byte of a chip address, `{ca, 0000}` (R29, R223). -/
def chipAddressByte (ca : Nibble) : Byte := ca.zeroExtend 8 <<< 4

/-- The chip address kept of a byte, its top nibble (R220). -/
def topNibble (x : Byte) : Nibble := x.extractLsb' 4 4

/-- `cand[3:0]` (R226). -/
def candidateNibble (c : BitVec 5) : Nibble := c.extractLsb' 0 4

end Sys2Proof.Machine
end

