-- ==== Sys2Proof/Machine/Transactions.lean ====
section
/-! DEFINITION. The register transaction sequencer (42_transactions). -/

namespace Sys2Proof.Machine

/-- TxCheck's second check, after NOT_BEGUN (R180). -/
def restingFault (s : State) : Option FaultCode :=
  if s.mode ≠ some rest then some .notResting else none

/-- TxCheck() (R180). -/
def txCheck (s : State) : Option FaultCode := afterBegun restingFault s

/-- The latch path of the variant from REST and back (R182, R190). -/
def latchPath (s : State) : State :=
  match s.cfg.variant with
  | .a =>
    edgeStep 0b000#3 0b010#3 (edgeStep 0b001#3 0b000#3 (edgeStep 0b000#3 0b001#3 (edgeStep 0b010#3 0b000#3 s)))
  | .b => edgeStep 0b111#3 0b010#3 (edgeStep 0b010#3 0b111#3 s)

/-- LatchSeq(a) (R182); the bus is left OUT, driving a. -/
def latchSeq (a : Byte) (s : State) : State := latchPath (busOut a s)

/-- PulseSeq() (R184). -/
def pulseSeq (s : State) : State :=
  edgeStep 0b110#3 0b010#3 (emit .holdWrite (edgeStep 0b010#3 0b110#3 s))

/-- ReadSeq() (R198): the byte read, and the state after it. -/
def readSeq (s : State) : Byte × State :=
  let p := sampleByte (edgeStep 0b010#3 0b011#3 (busIn s))
  (p.1, edgeStep 0b011#3 0b010#3 p.2)

/-- CritEnter() (R186). -/
def critEnter (s : State) : State :=
  emit (.crit .enter s.hostIe) { s with ieSaved := some s.hostIe, hostIe := false, crit := true }

/-- The interruptibility CritExit restores (R187). `ie_saved` is ⊥ only where no section was entered, and CritExit is
never called there (R188; log entry 9). -/
def savedIe (s : State) : Bool :=
  match s.ieSaved with
  | some ie => ie
  | none => s.hostIe

/-- CritExit() (R187). -/
def critExit (s : State) : State :=
  emit (.crit .exit (savedIe s)) { s with hostIe := savedIe s, crit := false }

/-- LATCH r (R191). -/
def execLatch (r : Nibble) (s : State) : Host.Outcome State Fault Refusal :=
  command neverRefused txCheck (fun s => respond .none (latchSeq (composite s.ca r) s)) s

/-- WRITE's sequence (R195). -/
def writeSeq (r : Nibble) (d : Byte) (s : State) : State :=
  busIn (critExit (pulseSeq (critEnter (busOut d (latchSeq (composite s.ca r) s)))))

/-- WRITE r, d (R195). -/
def execWrite (r : Nibble) (d : Byte) (s : State) : Host.Outcome State Fault Refusal :=
  command neverRefused txCheck (fun s => respond .none (writeSeq r d s)) s

/-- READ's effect (R199). -/
def respondRead (r : Nibble) (s : State) : State :=
  let p := readSeq (latchSeq (composite s.ca r) s)
  respond (.byte p.1) p.2

/-- READ r (R199). -/
def execRead (r : Nibble) (s : State) : Host.Outcome State Fault Refusal :=
  command neverRefused txCheck (respondRead r) s

/-- WtrBody(r, d) (R228): WTR from CritEnter to CritExit. -/
def wtrBody (r : Nibble) (d : Byte) (s : State) : Byte × State :=
  let p := readSeq (pulseSeq (busOut d (latchSeq (composite s.ca r) (critEnter s))))
  (p.1, critExit p.2)

/-- WTR's effect (R201). -/
def respondWtr (r : Nibble) (d : Byte) (s : State) : State :=
  let p := wtrBody r d s
  respond (.byte p.1) p.2

/-- WTR r, d (R201). -/
def execWtr (r : Nibble) (d : Byte) (s : State) : Host.Outcome State Fault Refusal :=
  command neverRefused txCheck (respondWtr r d) s

end Sys2Proof.Machine
end

