-- ==== Sys2Proof/Machine/ChipAddress.lean ====
section
/-! DEFINITION. The chip-address commands (43_chip_address). -/

namespace Sys2Proof.Machine

/-- SETCA's effect: the top nibble of x (R220). -/
def setChipAddress (x : Byte) (s : State) : State := { s with ca := topNibble x }

/-- SETCA x (R220); legal before BEGIN and in any mode. -/
def execSetca (x : Byte) (s : State) : Host.Outcome State Fault Refusal :=
  command neverRefused neverFaults (fun s => respond .none (setChipAddress x s)) s

/-- GETCA (R223). -/
def execGetca (s : State) : Host.Outcome State Fault Refusal :=
  command neverRefused neverFaults (fun s => respond (.byte (chipAddressByte s.ca)) s) s

/-- One candidate of the scan: it becomes the active chip address, then one WtrBody (R226, R228). -/
def probe (s : State) : Byte × State :=
  wtrBody s.cfg.scanReg s.cfg.scanSentinel { s with ca := candidateNibble s.cand }

/-- FINDCA's loop (R226, R227): at most `n` more candidates, ascending from `S.cand`, stopping at the first match. -/
def scan : Nat → State → Response × State
  | 0, s => (.notFound, s)
  | n + 1, s =>
    if s.cand < 16 then
      let p := probe s
      if p.1 = s.cfg.scanSentinel then (.found (chipAddressByte (candidateNibble s.cand)), p.2)
      else scan n { p.2 with cand := p.2.cand + 1 }
    else (.notFound, s)

/-- FINDCA's effect (R226): the scan of the 16 candidates, then the chip address of before and `cand` 0. -/
def discover (s : State) : State :=
  let p := scan 16 { s with cand := 0 }
  respond p.1 { p.2 with ca := s.ca, cand := 0 }

/-- FINDCA (R226). -/
def execFindca (s : State) : Host.Outcome State Fault Refusal :=
  command neverRefused txCheck discover s

end Sys2Proof.Machine
end

