-- ==== Sys2Proof/Machine/Dispatch.lean ====
section
/-! DEFINITION. The one dispatch: each command's meaning by its full name. -/

namespace Sys2Proof.Machine

def exec (i : Instr) (s : State) : Host.Outcome State Fault Refusal :=
  match i with
  | .begin => Sys2Proof.Machine.execBegin s
  | .latch r => Sys2Proof.Machine.execLatch r s
  | .write r d => Sys2Proof.Machine.execWrite r d s
  | .read r => Sys2Proof.Machine.execRead r s
  | .wtr r d => Sys2Proof.Machine.execWtr r d s
  | .setca d => Sys2Proof.Machine.execSetca d s
  | .getca => Sys2Proof.Machine.execGetca s
  | .findca => Sys2Proof.Machine.execFindca s
  | .m010to000 => Sys2Proof.Machine.execM010to000 s
  | .m000to001 => Sys2Proof.Machine.execM000to001 s
  | .m001to000 => Sys2Proof.Machine.execM001to000 s
  | .m000to010 => Sys2Proof.Machine.execM000to010 s
  | .m010to110 => Sys2Proof.Machine.execM010to110 s
  | .m110to010 => Sys2Proof.Machine.execM110to010 s
  | .m010to011 => Sys2Proof.Machine.execM010to011 s
  | .m011to010 => Sys2Proof.Machine.execM011to010 s
  | .m010to111 => Sys2Proof.Machine.execM010to111 s
  | .m111to010 => Sys2Proof.Machine.execM111to010 s
  | .setmode m => Sys2Proof.Machine.execSetmode m s
  | .busout d => Sys2Proof.Machine.execBusout d s
  | .busin => Sys2Proof.Machine.execBusin s
  | .bussample => Sys2Proof.Machine.execBussample s

end Sys2Proof.Machine
end

