-- ==== Sys2Proof/WellFormed.lean ====
section
/-! DEFINITION. Which commands exist under a configuration: the "variants" and "condition" columns of
spec/opcode_table.json (R108, R133 to R142). Every operand field has the width of its type, so nothing else can be
ill formed. -/

namespace Sys2Proof

/-- The command is spelt by some word that the decoder accepts under `cfg`. -/
def Instr.wellFormed (cfg : Config) : Instr → Bool
  | .begin => true
  | .latch _ => true
  | .write _ _ => true
  | .read _ => true
  | .wtr _ _ => true
  | .setca _ => true
  | .getca => true
  | .findca => true
  | .m010to000 => cfg.variant == .a
  | .m000to001 => cfg.variant == .a
  | .m001to000 => cfg.variant == .a
  | .m000to010 => cfg.variant == .a
  | .m010to110 => true
  | .m110to010 => true
  | .m010to011 => true
  | .m011to010 => true
  | .m010to111 => cfg.variant == .b
  | .m111to010 => cfg.variant == .b
  | .setmode m => cfg.coarseEdgesOk && Machine.named cfg.variant m
  | .busout _ => true
  | .busin => true
  | .bussample => true

end Sys2Proof
end

