-- ==== Sys2Proof/Decode.lean ====
section
/-! DEFINITION. The decoder, total on all 2^16 words (30_encoding R100 to R109), and the encoder (R101, R113). -/

namespace Sys2Proof

/-- The numeric code of a refusal (R254). -/
def RefusalCode.code : RefusalCode → Byte
  | .reservedOp => 0x11
  | .nonzeroMbz => 0x12
  | .noSuchEdge => 0x13
  | .setmodeUnavailable => 0x14
  | .notAMode => 0x15

/-- `op = cmd[15:12]` (R100). -/
def opField (w : Word) : Nat := (w.extractLsb' 12 4).toNat

/-- `r = cmd[11:8]` (R102). -/
def regField (w : Word) : Nibble := w.extractLsb' 8 4

/-- `d = cmd[7:0]` (R102). -/
def dataField (w : Word) : Byte := w.extractLsb' 0 8

/-- `from = cmd[5:3]` (R102). -/
def fromField (w : Word) : ModeCode := w.extractLsb' 3 3

/-- `to = m = cmd[2:0]` (R102). -/
def toField (w : Word) : ModeCode := w.extractLsb' 0 3

/-- The must-be-zero bits of format N (R101). -/
def mbzN : Word := 0x0FFF
/-- The must-be-zero bits of format R (R101). -/
def mbzR : Word := 0x00FF
/-- Format RD has no must-be-zero bits (R101). -/
def mbzRD : Word := 0x0000
/-- The must-be-zero bits of format D (R101). -/
def mbzD : Word := 0x0F00
/-- The must-be-zero bits of format T (R101). -/
def mbzT : Word := 0x0FC0
/-- The must-be-zero bits of format M (R101). -/
def mbzM : Word := 0x0FF8

/-- The must-be-zero bits of the format that op has in the opcode map (R101, R103). -/
def mbzMask : Nat → Word
  | 0x0 => mbzN
  | 0x1 => mbzR
  | 0x2 => mbzRD
  | 0x3 => mbzR
  | 0x4 => mbzRD
  | 0x5 => mbzD
  | 0x6 => mbzN
  | 0x7 => mbzN
  | 0x8 => mbzT
  | 0x9 => mbzM
  | 0xA => mbzD
  | 0xB => mbzN
  | 0xC => mbzN
  | _ => 0

/-- Step 4 of R106: the XFER word of an edge of the variant's table, or NO_SUCH_EDGE. -/
def decodeXfer (cfg : Config) (src dst : ModeCode) : Except RefusalCode Instr :=
  match Machine.findEdge cfg.variant src dst with
  | some e => .ok e.cmd
  | none => .error .noSuchEdge

/-- Step 3 of R106: SETMODE needs `COARSE_EDGES_OK`, then a code of the variant. -/
def decodeSetmode (cfg : Config) (m : ModeCode) : Except RefusalCode Instr :=
  if cfg.coarseEdgesOk = false then .error .setmodeUnavailable
  else if Machine.named cfg.variant m then .ok (.setmode m)
  else .error .notAMode

/-- The command an accepted op spells (R103). -/
def decodeOp (cfg : Config) (w : Word) : Nat → Except RefusalCode Instr
  | 0x0 => .ok .begin
  | 0x1 => .ok (.latch (regField w))
  | 0x2 => .ok (.write (regField w) (dataField w))
  | 0x3 => .ok (.read (regField w))
  | 0x4 => .ok (.wtr (regField w) (dataField w))
  | 0x5 => .ok (.setca (dataField w))
  | 0x6 => .ok .getca
  | 0x7 => .ok .findca
  | 0x8 => decodeXfer cfg (fromField w) (toField w)
  | 0x9 => decodeSetmode cfg (toField w)
  | 0xA => .ok (.busout (dataField w))
  | 0xB => .ok .busin
  | 0xC => .ok .bussample
  | _ => .error .reservedOp

/-- The decoder: R106's checks in R106's order. -/
def decode (cfg : Config) (w : Word) : Except RefusalCode Instr :=
  if 0xD ≤ opField w then .error .reservedOp
  else if w &&& mbzMask (opField w) ≠ 0 then .error .nonzeroMbz
  else decodeOp cfg w (opField w)

/-- A word in formats N, R, RD and D: op, the bits 11:8 and the bits 7:0 (R101). -/
def packByte (op : Nibble) (r : Nibble) (d : Byte) : Word := op ++ r ++ d

/-- A word in format T: op 0x8, six zero bits, from, to (R101). -/
def packEdge (src dst : ModeCode) : Word := 0x8#4 ++ 0#6 ++ src ++ dst

/-- A word in format M: op 0x9, nine zero bits, m (R101). -/
def packMode (m : ModeCode) : Word := 0x9#4 ++ 0#9 ++ m

/-- The word that spells a command (R113). -/
def encode : Instr → Word
  | .begin => packByte 0x0 0 0
  | .latch r => packByte 0x1 r 0
  | .write r d => packByte 0x2 r d
  | .read r => packByte 0x3 r 0
  | .wtr r d => packByte 0x4 r d
  | .setca d => packByte 0x5 0 d
  | .getca => packByte 0x6 0 0
  | .findca => packByte 0x7 0 0
  | .m010to000 => packEdge 0b010#3 0b000#3
  | .m000to001 => packEdge 0b000#3 0b001#3
  | .m001to000 => packEdge 0b001#3 0b000#3
  | .m000to010 => packEdge 0b000#3 0b010#3
  | .m010to110 => packEdge 0b010#3 0b110#3
  | .m110to010 => packEdge 0b110#3 0b010#3
  | .m010to011 => packEdge 0b010#3 0b011#3
  | .m011to010 => packEdge 0b011#3 0b010#3
  | .m010to111 => packEdge 0b010#3 0b111#3
  | .m111to010 => packEdge 0b111#3 0b010#3
  | .setmode m => packMode m
  | .busout d => packByte 0xA 0 d
  | .busin => packByte 0xB 0 0
  | .bussample => packByte 0xC 0 0

/-- Config A0 with coarse-safe wiring, under which every Variant A row decodes. -/
def tableConfigA : Config := { Config.a0 with coarseEdgesOk := true }

/-- What the decoder reads from the word `w` of a row of spec/opcode_table.json. Decoding depends on the
configuration (R106), and no configuration has every row, so the answer is the one of Variant A on coarse-safe wiring
or, where that refuses, the one of Config B0 (log entry 13). -/
def decodeTableWord (nbits w : Nat) : Option Instr :=
  if nbits ≠ 16 then none
  else
    match decode tableConfigA (BitVec.ofNat 16 w) with
    | .ok i => some i
    | .error _ =>
      match decode Config.b0 (BitVec.ofNat 16 w) with
      | .ok i => some i
      | .error _ => none

end Sys2Proof
end

