-- ==== Sys2Proof/Machine/Port.lean ====
section
/-! DEFINITION. The host's side of a step: the command port and the host's own change of `host_ie` (10_state R20,
R30, R40). -/

namespace Sys2Proof.Machine

/-- The state once the first input has been taken from the port; `rest` are the inputs still to come. -/
def consume (rest : List HostInput) (s : State) : State := { s with port := rest }

/-- The host changes its interruptibility between commands (R30). -/
def hostSetIe (b : Bool) (s : State) : State := { s with hostIe := b }

/-- `s` with the word `w` as the host's next input. -/
def presentWord (w : Word) (s : State) : State := { s with port := .command w :: s.port }

end Sys2Proof.Machine
end

