-- ==== Sys2Proof/Machine/Step.lean ====
section
/-! DEFINITION. One step of the model (10_state R20, R21; 60_exceptions R258): the host's next input, taken whole. -/

namespace Sys2Proof.Machine

/-- A stopped block has no step and consumes no word (R258). A presented word is decoded, and then refused or
executed. A change of `host_ie` is the host's own step. With no input the block holds its state (R273). -/
def step (s : State) : Host.Outcome State Fault Refusal :=
  match s.stop with
  | .fault c => .fault (.stopped (.fault c))
  | .refused c => .fault (.stopped (.refused c))
  | .run =>
    match s.port with
    | [] => .next s
    | .setIe b :: rest => .next (hostSetIe b (consume rest s))
    | .command w :: rest =>
      match decode s.cfg w with
      | .ok i => exec i (consume rest s)
      | .error c => .next (refuse c (consume rest s))

/-- `s` with the word of a row of spec/opcode_table.json presented on the command port. Every word has 16 bits
(R100), whatever `nbits` says. -/
def State.withFetchWord (s : State) (_nbits w : Nat) : State := presentWord (BitVec.ofNat 16 w) s

end Sys2Proof.Machine
end

