-- ==== Sys2Proof/Machine/Assembler.lean ====
section
/-! DEFINITION. The assembler: its text, one command a line, and its pseudo-instructions (30_encoding R110 to R112). -/

namespace Sys2Proof.Machine

/-- A mode as three binary digits (R110). -/
def modeText (m : ModeCode) : String :=
  String.ofList ([Line.bdir, .bc2, .bc1].map fun l => if levelOf m l then '1' else '0')

/-- The text of a command (R110); an edge has its transition-by-name mnemonic (R111), numbers are decimal. -/
def asmText : Instr → String
  | .begin => "BEGIN"
  | .latch r => "LATCH " ++ toString r.toNat
  | .write r d => "WRITE " ++ toString r.toNat ++ ", " ++ toString d.toNat
  | .read r => "READ " ++ toString r.toNat
  | .wtr r d => "WTR " ++ toString r.toNat ++ ", " ++ toString d.toNat
  | .setca d => "SETCA " ++ toString d.toNat
  | .getca => "GETCA"
  | .findca => "FINDCA"
  | .m010to000 => "M010TO000"
  | .m000to001 => "M000TO001"
  | .m001to000 => "M001TO000"
  | .m000to010 => "M000TO010"
  | .m010to110 => "M010TO110"
  | .m110to010 => "M110TO010"
  | .m010to011 => "M010TO011"
  | .m011to010 => "M011TO010"
  | .m010to111 => "M010TO111"
  | .m111to010 => "M111TO010"
  | .setmode m => "SETMODE " ++ modeText m
  | .busout d => "BUSOUT " ++ toString d.toNat
  | .busin => "BUSIN"
  | .bussample => "BUSSAMPLE"

/-- `XFER from, to` in text (R110); `M<from>TO<to>` stands for the same word (R111). -/
def xferText (src dst : ModeCode) : String := "XFER " ++ modeText src ++ ", " ++ modeText dst

/-- `SETCAN n` is `SETCA (n << 4)` (R112). -/
def setcan (n : Nibble) : List Instr := [.setca (n ++ 0#4)]

/-- `LATCHA a`, Variant A only (R112). -/
def latcha (a : Byte) : List Instr := [.busout a, .m010to000, .m000to001, .m001to000, .m000to010]

/-- `LATCHB a`, Variant B only (R112). -/
def latchb (a : Byte) : List Instr := [.busout a, .m010to111, .m111to010]

/-- The words of a sequence, in the order the host presents them. -/
def assemble (is : List Instr) : List Word := is.map encode

end Sys2Proof.Machine
end

