-- ==== Sys2Proof/Machine/Flags.lean ====
section
/-! DEFINITION. The block has no condition codes (10_state R35). What a host sees of an outcome instead: the response
port (R41), and as a model observation the numeric stop code (60_exceptions R254, R256, R257). -/

namespace Sys2Proof.Machine

/-- The numeric code of a fault (R256). -/
def FaultCode.code : FaultCode → Byte
  | .notBegun => 0x21
  | .modeMismatch => 0x22
  | .notResting => 0x23
  | .busContention => 0x24
  | .undrivenBus => 0x25
  | .busChangeInPulse => 0x26
  | .sampleWhileDriving => 0x27

/-- The recorded stop code; `none` while the block runs (R257). -/
def Stop.code : Stop → Option Byte
  | .run => none
  | .fault c => some c.code
  | .refused c => some c.code

/-- `resp_kind[1:0]` (R41). -/
def Response.kind : Response → BitVec 2
  | .none => 0b00
  | .byte _ => 0b01
  | .found _ => 0b10
  | .notFound => 0b11

/-- `resp_data[7:0]` (R41). -/
def Response.data : Response → Byte
  | .none => 0x00
  | .byte v => v
  | .found v => v
  | .notFound => 0x00

/-- The response port: a stopped block produces no response (R41, R257). -/
def State.responsePort (s : State) : Option (BitVec 2 × Byte) :=
  match s.stop with
  | .run => some (s.resp.kind, s.resp.data)
  | .fault _ => none
  | .refused _ => none

end Sys2Proof.Machine
end

