-- ==== Sys2Proof/Machine/Pins.lean ====
section
/-! DEFINITION. The block's pins as functions of its state (10_state R42, R43, R46). -/

namespace Sys2Proof.Machine

/-- What a pin of the block does. -/
inductive Pin where
  /-- The line has no pin. -/
  | absent
  /-- The pin exists and the block has not made it an output. -/
  | undriven
  /-- An input in high impedance. -/
  | highZ
  /-- An output at this level. -/
  | driven (level : Bool)
  deriving DecidableEq, Repr

/-- A control-line output (R42): undriven before BEGIN, then at the level of the current mode. -/
def ctlPin (l : Line) (s : State) : Pin :=
  if ctlConn s.cfg l = false then .absent
  else if s.init = false then .undriven
  else
    match s.mode with
    | some m => .driven (levelOf m l)
    | none => .undriven

/-- A data line (R43): driven from the output latch while the bus is OUT, high impedance while it is IN. -/
def dataPin (i : Fin 8) (s : State) : Pin :=
  if lineConnected s.cfg i = false then .absent
  else
    match s.dbusDir with
    | .output => .driven ((latchLevel s).getLsbD i)
    | .input => .highZ

/-- The clock line is never driven (R46). -/
def clockPin (s : State) : Pin := if s.cfg.clockConn then .undriven else .absent

/-- The address-select lines are never driven (R46). -/
def addrselPin (s : State) : Pin := if s.cfg.addrselConn then .undriven else .absent

end Sys2Proof.Machine
end

