-- ==== Sys2Proof/Machine/Traces.lean ====
section
/-! DEFINITION. The event lists of the spec, as its test-vector conventions abbreviate them (95_test_vectors,
Conventions): what claims about traces are stated in. No meaning calls them. -/

namespace Sys2Proof.Machine

/-- The events of one edge between connected lines (R130, R183). -/
def edgeEvents (cfg : Config) (src dst : ModeCode) : List Event :=
  [.ctl (connectedOnly cfg (lines src dst)), .mode (some src) dst]

/-- The events of BusOut(v) (R160): DIR only where the direction turns. -/
def busOutEvents (v : Byte) : BusDir → List Event
  | .input => [.drive v, .dir .output]
  | .output => [.drive v]

/-- The events of BusIn() (R162). -/
def busInEvents : BusDir → List Event
  | .input => []
  | .output => [.dir .input]

/-- The eight CTL and MODE events of `LAT_A`. -/
def latchPathA : List Event :=
  [.ctl [(.bc2, false)], .mode (some 0b010#3) 0b000#3, .ctl [(.bc1, true)], .mode (some 0b000#3) 0b001#3,
   .ctl [(.bc1, false)], .mode (some 0b001#3) 0b000#3, .ctl [(.bc2, true)], .mode (some 0b000#3) 0b010#3]

/-- The four CTL and MODE events of `LAT_B`. -/
def latchPathB : List Event :=
  [.ctl [(.bdir, true), (.bc1, true)], .mode (some 0b010#3) 0b111#3,
   .ctl [(.bdir, false), (.bc1, false)], .mode (some 0b111#3) 0b010#3]

/-- The latch path of a variant. -/
def latchPathEvents : Variant → List Event
  | .a => latchPathA
  | .b => latchPathB

/-- `PULSE`. -/
def pulseEvents : List Event :=
  [.ctl [(.bdir, true)], .mode (some 0b010#3) 0b110#3, .holdWrite, .ctl [(.bdir, false)], .mode (some 0b110#3) 0b010#3]

/-- The entry into READ_DATA. -/
def readEntryEvents : List Event := [.ctl [(.bc1, true)], .mode (some 0b010#3) 0b011#3]

/-- The return from READ_DATA. -/
def readExitEvents : List Event := [.ctl [(.bc1, false)], .mode (some 0b011#3) 0b010#3]

/-- The connected data lines, D0 first (R163). -/
def connectedLines (cfg : Config) : List (Fin 8) := dataLines.filter (lineConnected cfg)

/-- The SAMPLE events of a byte read as `v`: one per connected line, D0 first (R163). -/
def sampleEvents (cfg : Config) (v : Byte) : List Event :=
  (connectedLines cfg).map fun i => .sample i (v.getLsbD i)

/-- How many connected lines come before line i: the number of bits drawn before its own. -/
def drawnBefore (cfg : Config) (i : Fin 8) : Nat := ((connectedLines cfg).filter fun j => decide (j < i)).length

/-- The bit a read started in state `s` gets on line i (R44, R80, R163): 0 where the line has no pin; else the
reference responder's answer, or the free bit that is drawn for it. -/
def bitRead (s : State) (i : Fin 8) : Bool :=
  lineConnected s.cfg i &&
    match s.responder with
    | some rr => rr.answer s.mode i
    | none => Config.busOracle (s.draws + drawnBefore s.cfg i)

/-- How many free bits a read started in state `s` draws. -/
def drawsOfRead (s : State) : Nat :=
  match s.responder with
  | some _ => 0
  | none => (connectedLines s.cfg).length

/-- The responder after a latch of address byte `a` (R78). -/
def latched (cfg : Config) (a : Byte) (rr : Responder) : Responder := rr.latch (rr.seen cfg.dataConn a)

/-- The responder after a write pulse of data byte `d` (R79). -/
def stored (cfg : Config) (d : Byte) (rr : Responder) : Responder := rr.store (rr.seen cfg.dataConn d)

end Sys2Proof.Machine
end

