-- ==== Sys2Proof/Machine/Construct.lean ====
section
/-! DEFINITION. Construction (10_state R22, R48; 60_exceptions R251): the first of the block's two reset points
(R280). -/

namespace Sys2Proof.Machine

/-- The configuration errors (R251). -/
inductive ConfigError where
  /-- 0x01. -/
  | ctlLineUnconnected
  /-- 0x02. -/
  | variantBNeedsCoarse
  deriving DecidableEq, Repr

/-- The numeric code of a configuration error (R251). -/
def ConfigError.code : ConfigError → Byte
  | .ctlLineUnconnected => 0x01
  | .variantBNeedsCoarse => 0x02

/-- The mandatory control lines of the variant have pins (R22, the two conditions of error 0x01). -/
def linesConnected (cfg : Config) : Bool :=
  match cfg.variant with
  | .a => cfg.bdirConn && cfg.bc2Conn && cfg.bc1Conn
  | .b => cfg.bdirConn && cfg.bc1Conn

/-- Variant B has coarse-safe wiring (R22, the condition of error 0x02). -/
def coarseWhereNeeded (cfg : Config) : Bool :=
  match cfg.variant with
  | .a => true
  | .b => cfg.coarseEdgesOk

/-- Construction's verdict; where both conditions fail, the one R22 lists first (log entry 12). -/
def configError (cfg : Config) : Option ConfigError :=
  if linesConnected cfg = false then some .ctlLineUnconnected
  else if coarseWhereNeeded cfg = false then some .variantBNeedsCoarse
  else none

/-- `valid(CFG)` (R22). -/
def configValid (cfg : Config) : Bool := linesConnected cfg && coarseWhereNeeded cfg

/-- The state at construction (R48), with the host's own interruptibility `ie` (R30) and whatever stands on the
bus. An invalid configuration has no state (R251). -/
def construct (cfg : Config) (ie : Bool) (bus : Option Responder) : Except ConfigError State :=
  match configError cfg with
  | some e => .error e
  | none => .ok { State.reset with cfg := cfg, hostIe := ie, responder := bus }

end Sys2Proof.Machine
end

