-- ==== Sys2Proof/Safety.lean ====
section
/-! DEFINITION. What the claims are stated in: safe states, the invariant, a command's own events and the properties
of a trace (42_transactions R205, R207). -/

namespace Sys2Proof.Machine

/-- A state in which no protocol violation has been recorded (R34). -/
abbrev State.running (s : State) : Prop := s.stop = .run

/-- A running block that has begun (R25, R34): where a bus command meets neither NOT_BEGUN nor a stop. -/
abbrev State.ready (s : State) : Prop := s.stop = .run ∧ s.init = true

/-- Begun and at REST: where a register transaction executes (R180). -/
abbrev State.atRest (s : State) : Prop := s.ready ∧ s.mode = some rest

/-- Between commands (R31, R32, R33): no critical section open, both counters at 0. -/
abbrev State.settled (s : State) : Prop := s.crit = false ∧ s.upc = 0 ∧ s.cand = 0

/-- Before BEGIN nothing has touched mode or bus (R48); after it the mode is one of the variant's codes (R26). -/
def State.modeLegal (s : State) : Prop :=
  (s.init = false → s.mode = none ∧ s.dbusDir = .input ∧ s.dbusOut = none) ∧
  (s.init = true → ∃ m, s.mode = some m ∧ named s.cfg.variant m = true)

/-- The bus phase (R168), and a driven bus always has a latched value (R28). -/
def State.phaseLegal (s : State) : Prop :=
  (∀ m, s.mode = some m → isRead m = true → s.dbusDir = .input) ∧
  (∀ m, s.mode = some m → (isLatch s.cfg.variant m = true ∨ isWrite m = true) → s.dbusDir = .output) ∧
  (s.dbusDir = .output → s.dbusOut ≠ none)

/-- The reference responder's register file is in canonical form and holds its 16 registers only. -/
def State.memoryLegal (s : State) : Prop :=
  ∀ rr, s.responder = some rr → rr.regs.wf = true ∧ ∀ a, 16 ≤ a → rr.regs.read a = 0

/-- The invariant of the block: a valid configuration (R22), settled between commands, a legal mode, the bus phase,
and a canonical memory. -/
def State.Inv (s : State) : Prop :=
  configValid s.cfg = true ∧ s.settled ∧ s.modeLegal ∧ s.phaseLegal ∧ s.memoryLegal

/-- `n` steps in a row, up to the first that has no next state. -/
def steps : Nat → State → Host.Outcome State Fault Refusal
  | 0, s => .next s
  | n + 1, s =>
    match step s with
    | .next t => steps n t
    | .fault f => .fault f
    | .refused r => .refused r

/-- TxCheck at the entry of a command (R180): before BEGIN it faults with NOT_BEGUN, away from REST with NOT_RESTING. -/
def checksEntry (i : Instr) (s : State) : Prop :=
  (s.init = false → exec i s = .next { s with stop := .fault .notBegun }) ∧
  (s.init = true → s.mode ≠ some 0b010#3 → exec i s = .next { s with stop := .fault .notResting })

/-- The outcome is a next state that satisfies `p`; for tests on one step. -/
def nextSatisfies (o : Host.Outcome State Fault Refusal) (p : State → Bool) : Bool :=
  match o with
  | .next t => p t
  | .fault _ => false
  | .refused _ => false

/-- The events of `t` that `s` did not have: the trace of the command that led from `s` to `t`. -/
def newEvents (s t : State) : List Event := t.trace.drop s.trace.length

/-- An event keeps the single-bit rule (R205): a MODE event with hd 1, a CTL event of one line. -/
def singleBit : Event → Bool
  | .ctl set => set.length == 1
  | .mode (some src) dst => hd src dst == 1
  | .mode none _ => false
  | .dir _ => true
  | .drive _ => true
  | .sample _ _ => true
  | .crit _ _ => true
  | .holdWrite => true
  | .resetPulse => true
  | .initCtl _ => true

/-- R207 over a list of events: `opened` is the `ie` of the section that is open, if one is. CRIT events alternate
from ENTER, each EXIT restores its ENTER's `ie`, every HOLD_WRITE lies inside a section, and none is open at the end. -/
def critDisciplined : Option Bool → List Event → Bool
  | none, [] => true
  | some _, [] => false
  | none, .crit .enter ie :: es => critDisciplined (some ie) es
  | none, .crit .exit _ :: _ => false
  | none, .holdWrite :: _ => false
  | some _, .crit .enter _ :: _ => false
  | some ie, .crit .exit ie' :: es => ie == ie' && critDisciplined none es
  | o, _ :: es => critDisciplined o es

end Sys2Proof.Machine
end

