-- ==== Sys2Proof/Certificates/Slice0/Obligations.lean ====
section
/-! DEFINITION. The statements for the provers, from the spec's numbered rules. -/

open Sys2Proof Sys2Proof.Machine

/-! Construction, reset and the invariant. -/

/-- R22, R251: a configuration is constructed exactly when the variant's mandatory lines have pins and Variant B has
coarse-safe wiring; else construction answers the error R251 names for what is missing. Where both are missing the
rules fix no order, and only that construction fails is stated. -/
def Obligations.ConstructionNeedsValidWiring : Prop :=
  ∀ (cfg : Config) (ie : Bool) (bus : Option Responder),
    let linesOk := (cfg.variant = .a → cfg.bdirConn = true ∧ cfg.bc2Conn = true ∧ cfg.bc1Conn = true) ∧
      (cfg.variant = .b → cfg.bdirConn = true ∧ cfg.bc1Conn = true)
    let coarseOk := cfg.variant = .b → cfg.coarseEdgesOk = true
    (linesOk ∧ coarseOk → ∃ s, construct cfg ie bus = .ok s ∧ s.cfg = cfg) ∧
    (¬ linesOk ∧ coarseOk → construct cfg ie bus = .error .ctlLineUnconnected) ∧
    (linesOk ∧ ¬ coarseOk → construct cfg ie bus = .error .variantBNeedsCoarse) ∧
    (¬ linesOk ∧ ¬ coarseOk → ∃ e, construct cfg ie bus = .error e) ∧
    ConfigError.ctlLineUnconnected.code = 0x01 ∧ ConfigError.variantBNeedsCoarse.code = 0x02

/-- R48: the state at construction and right after the first BEGIN, field by field and pin by pin, for every valid
configuration and every interruptibility of the host. -/
def Obligations.ConstructionAndFirstBegin : Prop :=
  ∀ (cfg : Config) (ie : Bool) (bus : Option Responder), configValid cfg = true →
    ∃ s t, construct cfg ie bus = .ok s ∧ exec .begin s = .next t ∧
      (s.init = false ∧ s.mode = none ∧ s.dbusDir = .input ∧ s.dbusOut = none ∧ s.ca = 0 ∧ s.hostIe = ie ∧
        s.ieSaved = none ∧ s.crit = false ∧ s.upc = 0 ∧ s.cand = 0 ∧ s.stop = .run ∧ s.resp = .none) ∧
      (∀ l, ctlConn cfg l = true → ctlPin l s = .undriven) ∧
      (∀ i, lineConnected cfg i = true → dataPin i s = .highZ) ∧
      (t.init = true ∧ t.mode = some rest ∧ t.dbusDir = .input ∧ t.dbusOut = none ∧ t.ca = 0 ∧ t.hostIe = ie ∧
        t.ieSaved = none ∧ t.crit = false ∧ t.upc = 0 ∧ t.cand = 0 ∧ t.stop = .run ∧ t.resp = .none) ∧
      (∀ l, ctlConn cfg l = true → ctlPin l t = .driven (levelOf 0b010#3 l)) ∧
      (∀ i, lineConnected cfg i = true → dataPin i t = .highZ)

/-- The model's reset state is the state at construction of Config A0 with host_ie 1 and no reference responder (the
model's choices, log entries 1, 2 and 7), and it meets the invariant. -/
def Obligations.ResetIsConstructedAndLegal : Prop :=
  construct Config.a0 true none = .ok State.reset ∧ State.reset.Inv

/-- Every step from a state that meets the invariant, reached or not, leads to one that meets it: a valid
configuration (R22), no open critical section and both counters at 0 between commands (R31, R32, R33), ⊥ before
BEGIN and one of the variant's codes after (R26), the bus phase (R168), and a canonical responder memory. -/
def Obligations.StepKeepsInvariant : Prop :=
  ∀ s t : State, s.Inv → step s = .next t → t.Inv

/-! Steps, stops and the order of checks. -/

/-- A presented word that decodes is a well-formed command, and the step is exactly its execution once the word has
been taken from the port; in particular for the word `withFetchWord` presents. -/
def Obligations.StepRunsDecodedInstruction : Prop :=
  (∀ (s : State) (w : Word) (more : List HostInput) (i : Instr),
    s.stop = .run → s.port = .command w :: more → decode s.cfg w = .ok i →
      i.wellFormed s.cfg = true ∧ step s = exec i { s with port := more }) ∧
  (∀ (s : State) (nbits n : Nat) (i : Instr),
    s.stop = .run → decode s.cfg (BitVec.ofNat 16 n) = .ok i → step (s.withFetchWord nbits n) = exec i s)

/-- R264 (and R34, R258): once the block has stopped, no step and no command, BEGIN included, does anything. -/
def Obligations.StoppedBlockHasNoStep : Prop :=
  ∀ s : State, s.stop ≠ .run →
    step s = .fault (.stopped s.stop) ∧ ∀ i, exec i s = .fault (.stopped s.stop)

/-- R253: a word the decoder refuses with code c sets `stop` to REFUSED(c), with no event, no response and no other
field changed (the word itself has been taken from the port), and the block then has no further step. -/
def Obligations.RefusedWordOnlyStops : Prop :=
  ∀ (s : State) (w : Word) (more : List HostInput) (c : RefusalCode),
    s.stop = .run → s.port = .command w :: more → decode s.cfg w = .error c →
      ∃ t, step s = .next t ∧ t = { s with port := more, stop := .refused c } ∧ t.responsePort = none ∧
        step t = .fault (.stopped (.refused c))

/-- The host's own inputs (the model's choice, log entry 3; R20, R30): a change of host_ie changes that bit alone,
and with no input a running block holds its state. -/
def Obligations.HostInputsBetweenCommands : Prop :=
  (∀ (s : State) (b : Bool) (more : List HostInput), s.stop = .run → s.port = .setIe b :: more →
    step s = .next { s with hostIe := b, port := more }) ∧
  (∀ s : State, s.stop = .run → s.port = [] → step s = .next s)

/-- R262 and R255: whatever stops the block, a command's fault or refusal or a word that spells no command, changes
`stop` and no other field of the block (the word itself has been taken from the port); there is no event, no
response and no further step. -/
def Obligations.StopsArePrecise : Prop :=
  (∀ (i : Instr) (s t : State), exec i s = .next t → t.stop ≠ .run →
    t = { s with stop := t.stop } ∧ t.responsePort = none ∧ step t = .fault (.stopped t.stop)) ∧
  (∀ s t : State, step s = .next t → t.stop ≠ .run → t = { s with port := t.port, stop := t.stop })

/-- R260: before BEGIN every command that drives or samples a pin faults with NOT_BEGUN (where the configuration has
the command), while BEGIN, SETCA and GETCA run. -/
def Obligations.BusCommandsNeedBegin : Prop :=
  ∀ (i : Instr) (s : State), s.stop = .run → s.init = false → i.wellFormed s.cfg = true →
    ((∃ x, i = .setca x) ∨ i = .getca ∨ i = .begin → ∃ t, exec i s = .next t ∧ t.stop = .run) ∧
    (¬ ((∃ x, i = .setca x) ∨ i = .getca ∨ i = .begin) →
      exec i s = .next { s with stop := .fault .notBegun })

/-- R180: the entry check of LATCH, WRITE, READ, WTR and FINDCA, and that nothing else stops them. -/
def Obligations.TransactionsNeedRest : Prop :=
  ∀ (i : Instr) (s : State), s.stop = .run →
    (∃ r, i = .latch r) ∨ (∃ r d, i = .write r d) ∨ (∃ r, i = .read r) ∨ (∃ r d, i = .wtr r d) ∨ i = .findca →
      checksEntry i s ∧ (s.init = true → s.mode = some 0b010#3 → ∃ t, exec i s = .next t ∧ t.stop = .run)

/-! Encodings. -/

/-- Every well-formed command, with every operand, is what the decoder reads from its word. -/
def Obligations.DecodeOfEncode : Prop :=
  ∀ (cfg : Config) (i : Instr), i.wellFormed cfg = true → decode cfg (encode i) = .ok i

/-- R109: a word spells at most one command: what decodes is well formed and its own encoding. -/
def Obligations.AcceptedWordIsItsEncoding : Prop :=
  ∀ (cfg : Config) (w : Word) (i : Instr), decode cfg w = .ok i → i.wellFormed cfg = true ∧ encode i = w

/-- R106: the decoder's checks, in order, with the must-be-zero bits of each op's format (R101) and the edge tables
(R95, R96) written out; a word that passes them all spells the command whose word it is. -/
def Obligations.DecoderChecksInOrder : Prop :=
  ∀ (cfg : Config) (w : Word),
    let op := (w >>> 12).toNat
    let mbz : List Word := [0x0FFF, 0x00FF, 0, 0x00FF, 0, 0x0F00, 0x0FFF, 0x0FFF, 0x0FC0, 0x0FF8, 0x0F00, 0x0FFF, 0x0FFF]
    let src := w.extractLsb' 3 3
    let dst := w.extractLsb' 0 3
    let table : List (ModeCode × ModeCode) := match cfg.variant with
      | .a => [(0b010, 0b000), (0b000, 0b001), (0b001, 0b000), (0b000, 0b010), (0b010, 0b110), (0b110, 0b010),
          (0b010, 0b011), (0b011, 0b010)]
      | .b => [(0b010, 0b110), (0b110, 0b010), (0b010, 0b011), (0b011, 0b010), (0b010, 0b111), (0b111, 0b010)]
    let codes : List ModeCode := match cfg.variant with
      | .a => [0b000, 0b010, 0b001, 0b011, 0b110]
      | .b => [0b010, 0b111, 0b011, 0b110]
    if 13 ≤ op then decode cfg w = .error .reservedOp
    else if w &&& (mbz[op]?).getD 0 ≠ 0 then decode cfg w = .error .nonzeroMbz
    else if op = 9 ∧ cfg.coarseEdgesOk = false then decode cfg w = .error .setmodeUnavailable
    else if op = 9 ∧ dst ∉ codes then decode cfg w = .error .notAMode
    else if op = 8 ∧ (src, dst) ∉ table then decode cfg w = .error .noSuchEdge
    else ∃ i, decode cfg w = .ok i ∧ encode i = w

/-- Words written out from the spec's encodings (R95, R96, R113 and 95_test_vectors V1), one per family. -/
def Obligations.SampleWordsDecode : Prop :=
  decode Config.a0 0x0000 = .ok .begin ∧
  decode Config.a0 0x1F00 = .ok (.latch 15) ∧
  decode Config.a0 0x2738 = .ok (.write 7 0x38) ∧
  decode Config.a0 0x4B7A = .ok (.wtr 11 0x7A) ∧
  decode Config.a0 0x5035 = .ok (.setca 0x35) ∧
  decode Config.a0 0x8010 = .ok .m010to000 ∧
  decode Config.b0 0x8017 = .ok .m010to111 ∧
  decode Config.b0 0x9007 = .ok (.setmode 0b111) ∧
  decode Config.a0 0xA0A5 = .ok (.busout 0xA5) ∧
  decode Config.b0 0x8010 = .error .noSuchEdge ∧
  decode Config.a0 0xF123 = .error .reservedOp

/-! The Bus Mode Controller. -/

/-- R94: every Variant A edge differs in exactly one bit; in Variant B only the latch's two edges differ in more. -/
def Obligations.VariantAEdgesAreSingleBit : Prop :=
  (∀ e ∈ edges .a, hd e.src e.dst = 1 ∧ (lines e.src e.dst).length = 1) ∧
  (∀ e ∈ edges .b, hd e.src e.dst = if e.src = 0b111#3 ∨ e.dst = 0b111#3 then 2 else 1)

/-- R130, R132 and R133 to R142: each of the ten edges, with its word and its variants. Outside its variants it is
refused. In them it faults before BEGIN, from another mode, or in the wrong bus phase for its target, and otherwise
completes: the changed lines that have pins move in one CTL, the mode advances, and nothing else of the block changes.
The reference responder reacts to the MODE event alone. -/
def Obligations.XferTakesOneEdge : Prop :=
  ∀ (i : Instr) (word : Word) (src dst : ModeCode) (variants : List Variant),
    (i, word, src, dst, variants) ∈ ([
      (.m010to000, 0x8010, 0b010#3, 0b000#3, [.a]), (.m000to001, 0x8001, 0b000#3, 0b001#3, [.a]),
      (.m001to000, 0x8008, 0b001#3, 0b000#3, [.a]), (.m000to010, 0x8002, 0b000#3, 0b010#3, [.a]),
      (.m010to110, 0x8016, 0b010#3, 0b110#3, [.a, .b]), (.m110to010, 0x8032, 0b110#3, 0b010#3, [.a, .b]),
      (.m010to011, 0x8013, 0b010#3, 0b011#3, [.a, .b]), (.m011to010, 0x801A, 0b011#3, 0b010#3, [.a, .b]),
      (.m010to111, 0x8017, 0b010#3, 0b111#3, [.b]), (.m111to010, 0x803A, 0b111#3, 0b010#3, [.b])] :
        List (Instr × Word × ModeCode × ModeCode × List Variant)) →
    encode i = word ∧ ∀ s : State, s.stop = .run →
      (s.cfg.variant ∉ variants → exec i s = .next { s with stop := .refused .noSuchEdge }) ∧
      (s.cfg.variant ∈ variants →
        let contention := dst = 0b011#3 ∧ s.dbusDir = .output
        let undriven := (dst = 0b110#3 ∨ dst = latchAddr s.cfg.variant) ∧ s.dbusDir = .input
        (s.init = false → exec i s = .next { s with stop := .fault .notBegun }) ∧
        (s.init = true → s.mode ≠ some src → exec i s = .next { s with stop := .fault .modeMismatch }) ∧
        (s.init = true → s.mode = some src →
          (contention → exec i s = .next { s with stop := .fault .busContention }) ∧
          (undriven → exec i s = .next { s with stop := .fault .undrivenBus }) ∧
          (¬ contention → ¬ undriven → exec i s = .next { s with
            mode := some dst
            resp := .none
            upc := 0
            trace := s.trace ++ [.ctl (connectedOnly s.cfg (lines src dst)), .mode (some src) dst]
            responder := s.responder.map
              (Responder.observe s.cfg.variant (drivenLines s) (latchLevel s) (.mode (some src) dst)) })))

/-- R144: an edge whose written line has no pin emits an empty CTL and still advances the mode; and in a valid
configuration no edge of the variant writes such a line. -/
def Obligations.UnconnectedControlLine : Prop :=
  (∀ (s : State) (l : Line) (b : Bool) (src dst : ModeCode),
    hasEdge s.cfg.variant src dst = true → lines src dst = [(l, b)] → ctlConn s.cfg l = false →
    s.ready → s.mode = some src → phaseCheck dst s = none →
      ∃ t, xfer src dst s = .next t ∧ t.mode = some dst ∧
        t.trace = s.trace ++ [.ctl [], .mode (some src) dst]) ∧
  (∀ cfg : Config, configValid cfg = true → ∀ e ∈ edges cfg.variant,
    connectedOnly cfg (lines e.src e.dst) = lines e.src e.dst)

/-- R145 and R108: SETMODE is refused without coarse-safe wiring or to a code outside the variant; it faults before
BEGIN or in the wrong bus phase for another mode; to the current mode it emits nothing; and otherwise it changes the
mode in one output update. -/
def Obligations.SetmodeChangesMode : Prop :=
  ∀ (s : State) (m : ModeCode), s.stop = .run → encode (.setmode m) = 0x9000 ||| m.zeroExtend 16 ∧
    (s.cfg.coarseEdgesOk = false → exec (.setmode m) s = .next { s with stop := .refused .setmodeUnavailable }) ∧
    (s.cfg.coarseEdgesOk = true → named s.cfg.variant m = false →
      exec (.setmode m) s = .next { s with stop := .refused .notAMode }) ∧
    (s.cfg.coarseEdgesOk = true → named s.cfg.variant m = true →
      let contention := m = 0b011#3 ∧ s.dbusDir = .output
      let undriven := (m = 0b110#3 ∨ m = latchAddr s.cfg.variant) ∧ s.dbusDir = .input
      (s.init = false → exec (.setmode m) s = .next { s with stop := .fault .notBegun }) ∧
      (s.init = true → s.mode = some m → exec (.setmode m) s = .next { s with resp := .none, upc := 0 }) ∧
      (s.init = true → s.mode ≠ some m →
        (contention → exec (.setmode m) s = .next { s with stop := .fault .busContention }) ∧
        (undriven → exec (.setmode m) s = .next { s with stop := .fault .undrivenBus }) ∧
        (¬ contention → ¬ undriven → ∀ src, s.mode = some src → exec (.setmode m) s = .next { s with
          mode := some m
          resp := .none
          upc := 0
          trace := s.trace ++ [.ctl (connectedOnly s.cfg (lines src m)), .mode (some src) m]
          responder := s.responder.map
            (Responder.observe s.cfg.variant (drivenLines s) (latchLevel s) (.mode (some src) m)) })))

/-! The data bus. -/

/-- R160, R161: in an inactive mode BUSOUT writes the latch, turns the bus OUT, and emits DRIVE, with DIR(OUT) only
where the direction changed; in READ_DATA it is BUS_CONTENTION, in LATCH_ADDR or WRITE_DATA BUS_CHANGE_IN_PULSE. -/
def Obligations.BusoutDrives : Prop :=
  ∀ (s : State) (d : Byte), s.stop = .run → encode (.busout d) = 0xA000 ||| d.zeroExtend 16 ∧
    (s.init = false → exec (.busout d) s = .next { s with stop := .fault .notBegun }) ∧
    (s.init = true → ∀ m, s.mode = some m →
      (m = 0b011#3 → exec (.busout d) s = .next { s with stop := .fault .busContention }) ∧
      (m = latchAddr s.cfg.variant ∨ m = 0b110#3 →
        exec (.busout d) s = .next { s with stop := .fault .busChangeInPulse }) ∧
      (m ≠ 0b011#3 → m ≠ latchAddr s.cfg.variant → m ≠ 0b110#3 →
        exec (.busout d) s = .next { s with
          dbusDir := .output
          dbusOut := some d
          resp := .none
          upc := 0
          trace := s.trace ++ (if s.dbusDir = .input then [.drive d, .dir .output] else [.drive d]) }))

/-- R162, R164: BUSIN turns the bus IN, with DIR(IN) only where it was OUT, and keeps the latch; in LATCH_ADDR or
WRITE_DATA it is UNDRIVEN_BUS. -/
def Obligations.BusinReleases : Prop :=
  encode .busin = 0xB000 ∧ ∀ s : State, s.stop = .run →
    (s.init = false → exec .busin s = .next { s with stop := .fault .notBegun }) ∧
    (s.init = true → ∀ m, s.mode = some m →
      (m = latchAddr s.cfg.variant ∨ m = 0b110#3 → exec .busin s = .next { s with stop := .fault .undrivenBus }) ∧
      (m ≠ latchAddr s.cfg.variant → m ≠ 0b110#3 →
        exec .busin s = .next { s with
          dbusDir := .input
          resp := .none
          upc := 0
          trace := s.trace ++ (if s.dbusDir = .output then [.dir .input] else []) }))

/-- R163, R167: BUSSAMPLE with the bus IN answers the byte whose bit i is what the bus answers on line i (0 where the
line has no pin), and emits one SAMPLE per connected line, D0 first; with the bus OUT it is SAMPLE_WHILE_DRIVING. -/
def Obligations.BussampleReads : Prop :=
  encode .bussample = 0xC000 ∧ ∀ s : State, s.stop = .run →
    (s.init = false → exec .bussample s = .next { s with stop := .fault .notBegun }) ∧
    (s.init = true → s.dbusDir = .output → exec .bussample s = .next { s with stop := .fault .sampleWhileDriving }) ∧
    (s.init = true → s.dbusDir = .input → ∃ v : Byte, (∀ i : Fin 8, v.getLsbD i = bitRead s i) ∧
      exec .bussample s = .next { s with
        resp := .byte v
        upc := 0
        trace := s.trace ++ sampleEvents s.cfg v
        draws := s.draws + drawsOfRead s })

/-! Register transactions, in a valid configuration: their words, the entry check (R180), and their effect at REST. -/

/-- R182, R191: LATCH r drives {ca, r}, takes the variant's latch path, and leaves the bus OUT. -/
def Obligations.LatchLatchesAddress : Prop :=
  ∀ (s : State) (r : Nibble), configValid s.cfg = true → s.stop = .run →
    encode (.latch r) = 0x1000 ||| r.zeroExtend 16 <<< 8 ∧ checksEntry (.latch r) s ∧
    (s.atRest → exec (.latch r) s = .next { s with
      dbusDir := .output
      dbusOut := some (s.ca ++ r)
      resp := .none
      upc := 0
      trace := s.trace ++ busOutEvents (s.ca ++ r) s.dbusDir ++ latchPathEvents s.cfg.variant
      responder := s.responder.map (latched s.cfg (s.ca ++ r)) })

/-- R195: WRITE r, d latches, drives d, makes the pulse inside a critical section and releases the bus; host_ie ends
as it was. -/
def Obligations.WritePulsesTheByte : Prop :=
  ∀ (s : State) (r : Nibble) (d : Byte), configValid s.cfg = true → s.stop = .run →
    encode (.write r d) = 0x2000 ||| r.zeroExtend 16 <<< 8 ||| d.zeroExtend 16 ∧ checksEntry (.write r d) s ∧
    (s.atRest → exec (.write r d) s = .next { s with
      dbusDir := .input
      dbusOut := some d
      ieSaved := some s.hostIe
      crit := false
      resp := .none
      upc := 0
      trace := s.trace ++ busOutEvents (s.ca ++ r) s.dbusDir ++ latchPathEvents s.cfg.variant ++ [.drive d] ++
        [.crit .enter s.hostIe] ++ pulseEvents ++ [.crit .exit s.hostIe] ++ [.dir .input]
      responder := s.responder.map fun rr => stored s.cfg d (latched s.cfg (s.ca ++ r) rr) })

/-- R199: READ r latches, releases the bus, and answers the byte whose bit i the bus answers on line i in READ_DATA. -/
def Obligations.ReadAnswersTheBus : Prop :=
  ∀ (s : State) (r : Nibble), configValid s.cfg = true → s.stop = .run →
    encode (.read r) = 0x3000 ||| r.zeroExtend 16 <<< 8 ∧ checksEntry (.read r) s ∧
    (s.atRest → ∃ v : Byte,
      (∀ i : Fin 8, v.getLsbD i = bitRead { s with
        mode := some 0b011#3, responder := s.responder.map (latched s.cfg (s.ca ++ r)) } i) ∧
      exec (.read r) s = .next { s with
        dbusDir := .input
        dbusOut := some (s.ca ++ r)
        resp := .byte v
        upc := 0
        trace := s.trace ++ busOutEvents (s.ca ++ r) s.dbusDir ++ latchPathEvents s.cfg.variant ++ [.dir .input] ++
          readEntryEvents ++ sampleEvents s.cfg v ++ readExitEvents
        draws := s.draws + drawsOfRead s
        responder := s.responder.map (latched s.cfg (s.ca ++ r)) })

/-- R201: WTR r, d latches once, pulses d and reads back, all inside one critical section. -/
def Obligations.WtrWritesThenReads : Prop :=
  ∀ (s : State) (r : Nibble) (d : Byte), configValid s.cfg = true → s.stop = .run →
    encode (.wtr r d) = 0x4000 ||| r.zeroExtend 16 <<< 8 ||| d.zeroExtend 16 ∧ checksEntry (.wtr r d) s ∧
    (s.atRest → ∃ v : Byte,
      (∀ i : Fin 8, v.getLsbD i = bitRead { s with
        mode := some 0b011#3
        responder := s.responder.map fun rr => stored s.cfg d (latched s.cfg (s.ca ++ r) rr) } i) ∧
      exec (.wtr r d) s = .next { s with
        dbusDir := .input
        dbusOut := some d
        ieSaved := some s.hostIe
        crit := false
        resp := .byte v
        upc := 0
        trace := s.trace ++ [.crit .enter s.hostIe] ++ busOutEvents (s.ca ++ r) s.dbusDir ++
          latchPathEvents s.cfg.variant ++ [.drive d] ++ pulseEvents ++ [.dir .input] ++ readEntryEvents ++
          sampleEvents s.cfg v ++ readExitEvents ++ [.crit .exit s.hostIe]
        draws := s.draws + drawsOfRead s
        responder := s.responder.map fun rr => stored s.cfg d (latched s.cfg (s.ca ++ r) rr) })

/-! Chip address. -/

/-- R220: SETCA x keeps x's top nibble and touches nothing else of the block, in any mode and before BEGIN; a GETCA
that follows answers x & 0xF0. -/
def Obligations.SetcaKeepsTopNibble : Prop :=
  ∀ (s : State) (x : Byte), s.stop = .run →
    encode (.setca x) = 0x5000 ||| x.zeroExtend 16 ∧
    ∃ t, exec (.setca x) s = .next t ∧ t = { s with ca := x.extractLsb' 4 4, resp := .none, upc := 0 } ∧
      exec .getca t = .next { t with resp := .byte (x &&& 0xF0), upc := 0 }

/-- R223: GETCA answers {ca, 0000} and touches nothing else. -/
def Obligations.GetcaAnswersChipAddress : Prop :=
  encode .getca = 0x6000 ∧ ∀ s : State, s.stop = .run → exec .getca s = .next { s with resp := .byte (s.ca ++ 0#4), upc := 0 }

/-- R230 and R226: FINDCA at REST always completes, with the chip address of before, at REST with the bus IN and the
sentinel in the latch, and answers NOTFOUND or an address byte with a clear low nibble. -/
def Obligations.FindcaCompletesAndRestores : Prop :=
  ∀ s : State, s.atRest →
    ∃ t, exec .findca s = .next t ∧
      t = { s with
        dbusDir := .input
        dbusOut := some s.cfg.scanSentinel
        ieSaved := some s.hostIe
        crit := false
        upc := 0
        cand := 0
        resp := t.resp
        trace := t.trace
        responder := t.responder
        draws := t.draws } ∧
      s.trace <+: t.trace ∧ (t.resp = .notFound ∨ ∃ k : Nibble, t.resp = .found (k ++ 0#4))

/-- R226 to R228: FINDCA is a scan of WTR commands. Let `chain` be the states of one WTR of the sentinel per
candidate, ascending from 0. If candidate k is the first whose WTR answers the sentinel, FINDCA ends in that state
with the chip address of before and answers FOUND; if all 16 answer something else, it answers NOTFOUND. -/
def Obligations.FindcaIsAscendingScanOfWtr : Prop :=
  ∀ (s : State) (chain : Nat → State), s.atRest → s.settled → chain 0 = s →
    (∀ k < 16, exec (.wtr s.cfg.scanReg s.cfg.scanSentinel) { chain k with ca := BitVec.ofNat 4 k } =
      .next (chain (k + 1))) →
    (∀ k < 16, (∀ j < k, (chain (j + 1)).resp ≠ .byte s.cfg.scanSentinel) →
      (chain (k + 1)).resp = .byte s.cfg.scanSentinel →
        exec .findca s = .next { chain (k + 1) with ca := s.ca, resp := .found (BitVec.ofNat 4 k ++ 0#4) }) ∧
    ((∀ k < 16, (chain (k + 1)).resp ≠ .byte s.cfg.scanSentinel) →
      exec .findca s = .next { chain 16 with ca := s.ca, resp := .notFound })

/-- Discovery under the reference responder (R80, R226, R229; WE3): with every data line connected, a responder that
stores the whole sentinel and a floating bus that does not read as it, FINDCA finds exactly the responder's address,
keeps the block's own, and leaves the sentinel in SCAN_REG and no other register changed. -/
def Obligations.FindcaFindsReferenceResponder : Prop :=
  ∀ (s : State) (rr : Responder), s.atRest → s.responder = some rr → s.cfg.dataConn = 0xFF → rr.regs.wf = true →
    rr.float ≠ s.cfg.scanSentinel → rr.kept s.cfg.scanReg s.cfg.scanSentinel = s.cfg.scanSentinel →
    ∃ t rr', exec .findca s = .next t ∧ t.resp = .found (rr.addr ++ 0#4) ∧ t.ca = s.ca ∧
      t.responder = some rr' ∧ rr'.la = rr.addr ++ s.cfg.scanReg ∧
      ∀ x : Nat, rr'.regs.read x = if x = s.cfg.scanReg.toNat then s.cfg.scanSentinel else rr.regs.read x

/-- R295: FINDCA never matches when the sentinel has a 1 bit on a line without a pin, whatever stands on the bus. -/
def Obligations.FindcaBlindOnUnconnectedLine : Prop :=
  ∀ (s : State) (i : Fin 8), s.atRest → s.cfg.dataConn.getLsbD i = false → s.cfg.scanSentinel.getLsbD i = true →
    ∃ t, exec .findca s = .next t ∧ t.resp = .notFound

/-! BEGIN. -/

/-- R241, R240: BEGIN in every running state, before or after a first BEGIN and whatever the mode. -/
def Obligations.BeginInitialises : Prop :=
  encode .begin = 0x0000 ∧ ∀ s : State, s.stop = .run →
    exec .begin s = .next { s with
      init := true
      mode := some 0b010#3
      dbusDir := .input
      resp := .none
      upc := 0
      trace := s.trace ++
        [.initCtl (([(.bdir, false), (.bc2, true), (.bc1, false)] : List (Line × Bool)).filter
          fun p => ctlConn s.cfg p.1)] ++
        (if s.mode = some 0b010#3 then [] else [.mode s.mode 0b010#3]) ++ [.dir .input] ++
        (if s.cfg.resetConn = true then [.resetPulse] else [])
      responder := if s.cfg.resetConn = true then s.responder.map Responder.clear else s.responder }

/-- R242: a second BEGIN in a row leaves every field of the block's state as the first left it; its own trace has no
MODE event. -/
def Obligations.BeginIsIdempotent : Prop :=
  ∀ s t : State, s.stop = .run → exec .begin s = .next t →
    exec .begin t = .next { t with
      trace := t.trace ++ [.initCtl (restLevels s.cfg)] ++ [.dir .input] ++
        (if s.cfg.resetConn = true then [.resetPulse] else []) }

/-! Whole-machine rules. -/

/-- R23: no step changes the configuration. -/
def Obligations.ConfigurationNeverChanges : Prop :=
  ∀ s t : State, step s = .next t → t.cfg = s.cfg

/-- R25: nothing clears `init`, and only a completed BEGIN sets it. -/
def Obligations.OnlyBeginSetsInit : Prop :=
  ∀ (i : Instr) (s t : State), exec i s = .next t →
    (s.init = true → t.init = true) ∧ (i ≠ .begin → t.init = s.init) ∧ (i = .begin → t.init = true)

/-- R26: only BEGIN, the edges and SETMODE leave the mode other than they found it; the transactions end where they
started. -/
def Obligations.OnlyModeCommandsMoveTheMode : Prop :=
  ∀ (i : Instr) (s t : State), exec i s = .next t →
    i ∉ [Instr.begin, .m010to000, .m000to001, .m001to000, .m000to010, .m010to110, .m110to010, .m010to011, .m011to010,
      .m010to111, .m111to010] → (∀ m, i ≠ .setmode m) → t.mode = s.mode

/-- R29: only SETCA leaves another chip address; FINDCA has restored it when it ends. -/
def Obligations.OnlySetcaMovesTheChipAddress : Prop :=
  ∀ (i : Instr) (s t : State), exec i s = .next t → (∀ x, i ≠ .setca x) → t.ca = s.ca

/-- R30: every command leaves the host's interruptibility at its value on entry. -/
def Obligations.InterruptibilityIsRestored : Prop :=
  ∀ (i : Instr) (s t : State), exec i s = .next t → t.hostIe = s.hostIe

/-- R205: in a valid configuration every event of LATCH, WRITE, READ and WTR keeps the single-bit rule, but in
Variant B for the four events of the latch path. -/
def Obligations.TransactionsAreSingleBit : Prop :=
  ∀ (i : Instr) (s t : State), configValid s.cfg = true → exec i s = .next t →
    (∃ r, i = .latch r) ∨ (∃ r d, i = .write r d) ∨ (∃ r, i = .read r) ∨ (∃ r d, i = .wtr r d) →
      (s.cfg.variant = .a → ∀ e ∈ newEvents s t, singleBit e = true) ∧
      (s.cfg.variant = .b → ∀ e ∈ newEvents s t, singleBit e = true ∨ e ∈ latchPathB)

/-- R207: in the trace of every command CRIT events alternate from ENTER, each EXIT restores its ENTER's value, and
every HOLD_WRITE lies inside a section. -/
def Obligations.CriticalSectionsAreDisciplined : Prop :=
  ∀ (i : Instr) (s t : State), exec i s = .next t →
    critDisciplined none (newEvents s t) = true ∧ t.hostIe = s.hostIe

/-- R206: a LATCH, WRITE, READ or WTR that does not stop ends at REST, LATCH with the bus OUT and the others with it
IN. -/
def Obligations.TransactionsEndAtRest : Prop :=
  ∀ (i : Instr) (s t : State), exec i s = .next t → t.stop = .run →
    ((∃ r, i = .latch r) → t.mode = some 0b010#3 ∧ t.dbusDir = .output) ∧
    ((∃ r d, i = .write r d) ∨ (∃ r, i = .read r) ∨ (∃ r d, i = .wtr r d) →
      t.mode = some 0b010#3 ∧ t.dbusDir = .input)

/-- R165: a line without a pin is absent, is never sampled by any command, and is 0 in every byte that READ, WTR and
BUSSAMPLE answer. -/
def Obligations.UnconnectedDataLines : Prop :=
  ∀ (i : Instr) (s t : State) (n : Fin 8), s.cfg.dataConn.getLsbD n = false → exec i s = .next t →
    dataPin n t = .absent ∧ (∀ b, .sample n b ∉ newEvents s t) ∧
    ((∃ r, i = .read r) ∨ (∃ r d, i = .wtr r d) ∨ i = .bussample → t.stop = .run →
      ∃ v : Byte, t.resp = .byte v ∧ v.getLsbD n = false)

/-- R302: how many events each command emits, with every data line connected and, for BEGIN, a reset line: BEGIN, every
edge, SETMODE to another mode, BUSOUT, BUSIN, BUSSAMPLE, SETCA and GETCA, wherever they complete, and from REST with the
bus IN the transactions and FINDCA, by the candidate that matched or none. -/
def Obligations.EventCounts : Prop :=
  ∀ (s : State), configValid s.cfg = true → s.cfg.dataConn = 0xFF →
    let counts := fun (t : State) (a b : Nat) =>
      t.trace.length = s.trace.length + if s.cfg.variant = .a then a else b
    let emits := fun (i : Instr) (a b : Nat) => ∃ t, exec i s = .next t ∧ t.stop = .run ∧ counts t a b
    (s.stop = .run → s.cfg.resetConn = true → s.mode = none → emits .begin 4 4) ∧
    (s.stop = .run → s.cfg.resetConn = true → s.mode = some 0b010#3 → emits .begin 3 3) ∧
    (s.stop = .run → ∀ x, emits (.setca x) 0 0 ∧ emits .getca 0 0) ∧
    (∀ i ∈ [Instr.m010to000, .m000to001, .m001to000, .m000to010, .m010to110, .m110to010, .m010to011, .m011to010,
      .m010to111, .m111to010], ∀ t, exec i s = .next t → t.stop = .run → counts t 2 2) ∧
    (∀ m t, s.mode ≠ some m → exec (.setmode m) s = .next t → t.stop = .run → counts t 2 2) ∧
    (∀ d t, exec (.busout d) s = .next t → t.stop = .run →
      (s.dbusDir = .input → counts t 2 2) ∧ (s.dbusDir = .output → counts t 1 1)) ∧
    (∀ t, exec .busin s = .next t → t.stop = .run →
      (s.dbusDir = .input → counts t 0 0) ∧ (s.dbusDir = .output → counts t 1 1)) ∧
    (s.ready → s.dbusDir = .input → emits .bussample 8 8) ∧
    (s.atRest → s.dbusDir = .output → (∀ d, emits (.busout d) 1 1) ∧ emits .busin 1 1) ∧
    (s.atRest → s.dbusDir = .input → (∀ d, emits (.busout d) 2 2) ∧ emits .busin 0 0 ∧ emits .m010to011 2 2 ∧
      (∀ r, emits (.latch r) 10 6) ∧ (∀ r d, emits (.write r d) 19 15) ∧ (∀ r, emits (.read r) 23 19) ∧
      (∀ r d, emits (.wtr r d) 31 27) ∧
      ∃ t, exec .findca s = .next t ∧ t.stop = .run ∧
        (∀ k : Nibble, t.resp = .found (k ++ 0#4) → counts t (31 * (k.toNat + 1)) (27 * (k.toNat + 1))) ∧
        (t.resp = .notFound → counts t 496 432))

/-- R42 and R131: in a legal begun state every connected control line is an output at its level in the current mode,
and in Variant B a connected BC2 is high. -/
def Obligations.ControlPinsFollowTheMode : Prop :=
  ∀ s : State, s.Inv → s.init = true →
    (∃ m, s.mode = some m ∧ ∀ l, ctlConn s.cfg l = true → ctlPin l s = .driven (levelOf m l)) ∧
    (s.cfg.variant = .b → s.cfg.bc2Conn = true → ctlPin .bc2 s = .driven true)

/-- R41: the response port's kinds and data, and its silence after a stop. -/
def Obligations.ResponsePortEncoding : Prop :=
  ∀ s : State,
    (s.stop = .run →
      (s.resp = .none → s.responsePort = some (0b00#2, 0x00#8)) ∧
      (∀ v, s.resp = .byte v → s.responsePort = some (0b01#2, v)) ∧
      (∀ v, s.resp = .found v → s.responsePort = some (0b10#2, v)) ∧
      (s.resp = .notFound → s.responsePort = some (0b11#2, 0x00#8))) ∧
    (s.stop ≠ .run → s.responsePort = none)

/-! The reference responder (a test environment, R75). -/

/-- R63: the widths and masks of the 16 registers. -/
def Obligations.RegisterMasks : Prop :=
  (List.range 16).map (fun r => regWidth (BitVec.ofNat 4 r)) = [8, 4, 8, 4, 8, 4, 5, 8, 5, 5, 5, 8, 8, 4, 8, 8] ∧
  (List.range 16).map (fun r => regMask (BitVec.ofNat 4 r)) =
    [0xFF, 0x0F, 0xFF, 0x0F, 0xFF, 0x0F, 0x1F, 0xFF, 0x1F, 0x1F, 0x1F, 0xFF, 0xFF, 0x0F, 0xFF, 0xFF]

/-- R208: under the reference responder WTR and the pair WRITE, READ answer the same byte and leave the same register
file, by different traces. -/
def Obligations.WtrEqualsWriteThenRead : Prop :=
  ∀ (s : State) (rr : Responder) (r : Nibble) (d : Byte), s.atRest → s.responder = some rr →
    ∃ t u v, exec (.wtr r d) s = .next t ∧ exec (.write r d) s = .next u ∧ exec (.read r) u = .next v ∧
      t.resp = v.resp ∧ t.responder = v.responder ∧ t.trace ≠ v.trace

/-- R209: the round trip through a selected reference responder with every data line connected. -/
def Obligations.WriteReadRoundTrip : Prop :=
  ∀ (s : State) (rr : Responder) (r : Nibble) (d : Byte), s.atRest → s.responder = some rr → rr.addr = s.ca →
    s.cfg.dataConn = 0xFF → rr.regs.wf = true →
    ∃ u v, exec (.write r d) s = .next u ∧ exec (.read r) u = .next v ∧
      (regWidth r = 8 → v.resp = .byte d) ∧
      (regWidth r < 8 → rr.mask = true → v.resp = .byte (d &&& regMask r))

/-- Frame of the commands that store nothing: whatever they do, the register file of the reference responder reads as
before at every address; and all of them but LATCH, READ and the edges into LATCH_ADDR leave the whole responder. -/
def Obligations.NonStoringCommandsKeepRegisters : Prop :=
  ∀ (i : Instr) (s t : State), exec i s = .next t →
    (∀ r d, i ≠ .write r d ∧ i ≠ .wtr r d) → i ≠ .findca → i ≠ .m010to110 → i ≠ .setmode 0b110#3 →
    (i = .begin → s.cfg.resetConn = false) →
      (∀ rr, s.responder = some rr → ∃ rr', t.responder = some rr' ∧ ∀ x, rr'.regs.read x = rr.regs.read x) ∧
      ((∀ r, i ≠ .latch r ∧ i ≠ .read r) → i ≠ .m000to001 → i ≠ .m010to111 →
        i ≠ .setmode (latchAddr s.cfg.variant) → t.responder = s.responder)

/-- Frame of the commands that store (R79): WRITE and WTR store at the register their own latch addresses, and
M010TO110 and SETMODE 110 at the register latched before; only where the latched chip address is the responder's, and
every other address reads as before. -/
def Obligations.StoresTouchOneRegister : Prop :=
  ∀ (s t : State) (rr : Responder), s.responder = some rr → rr.regs.wf = true →
    (∀ r d, (exec (.write r d) s = .next t ∨ exec (.wtr r d) s = .next t) → t.stop = .run →
      let a := latched s.cfg (s.ca ++ r) rr
      ∃ rr', t.responder = some rr' ∧
        (∀ x, x ≠ a.laReg.toNat ∨ a.selected = false → rr'.regs.read x = rr.regs.read x) ∧
        (a.selected = true → rr'.regs.read a.laReg.toNat = rr.kept a.laReg (rr.seen s.cfg.dataConn d))) ∧
    (∀ d, s.mode ≠ some 0b110#3 → s.dbusOut = some d →
      (exec .m010to110 s = .next t ∨ exec (.setmode 0b110#3) s = .next t) → t.stop = .run →
      ∃ rr', t.responder = some rr' ∧
        (∀ x, x ≠ rr.laReg.toNat ∨ rr.selected = false → rr'.regs.read x = rr.regs.read x) ∧
        (rr.selected = true → rr'.regs.read rr.laReg.toNat = rr.kept rr.laReg (rr.seen s.cfg.dataConn d)))

/-- Frame of FINDCA (R226): every register of the responder but those that some candidate's latch addresses reads as
before. -/
def Obligations.FindcaKeepsOtherRegisters : Prop :=
  ∀ (s t : State) (rr : Responder), s.responder = some rr → rr.regs.wf = true → exec .findca s = .next t →
    ∃ rr', t.responder = some rr' ∧
      ∀ x, (∀ k : Nibble, x ≠ (latched s.cfg (k ++ s.cfg.scanReg) rr).laReg.toNat) →
        rr'.regs.read x = rr.regs.read x

/-- R112: the three pseudo-instructions, as the words they expand to and what running those words does: SETCAN n sets
the chip address n, and LATCHA a and LATCHB a latch the whole byte a and leave the bus OUT at REST. -/
def Obligations.PseudoInstructionsExpand : Prop :=
  (∀ n : Nibble, assemble (setcan n) = [0x50#8 ++ n ++ 0#4]) ∧
  (∀ a : Byte, assemble (latcha a) = [0xA0#8 ++ a, 0x8010, 0x8001, 0x8008, 0x8002] ∧
    assemble (latchb a) = [0xA0#8 ++ a, 0x8017, 0x803A]) ∧
  (∀ (s : State) (n : Nibble), s.stop = .run → s.port = (assemble (setcan n)).map .command →
    steps 1 s = .next { s with ca := n, resp := .none, upc := 0, port := [] }) ∧
  (∀ (s : State) (a : Byte), configValid s.cfg = true → s.atRest → s.cfg.variant = .a →
    s.port = (assemble (latcha a)).map .command →
      steps 5 s = .next { s with
        dbusDir := .output, dbusOut := some a, resp := .none, upc := 0, port := []
        trace := s.trace ++ busOutEvents a s.dbusDir ++ latchPathA
        responder := s.responder.map (latched s.cfg a) }) ∧
  (∀ (s : State) (a : Byte), configValid s.cfg = true → s.atRest → s.cfg.variant = .b →
    s.port = (assemble (latchb a)).map .command →
      steps 3 s = .next { s with
        dbusDir := .output, dbusOut := some a, resp := .none, upc := 0, port := []
        trace := s.trace ++ busOutEvents a s.dbusDir ++ latchPathB
        responder := s.responder.map (latched s.cfg a) })

/-- R229 (with R77, R79 and R295): what FINDCA leaves where it stores. A candidate is tried where it does not come after
the match. Where the latch of a tried candidate selects the responder, the register that latch addresses holds what the
responder keeps of the sentinel it sees; where none does, the register file is as before; and that register is
SCAN_REG where D0 to D3 have pins. -/
def Obligations.FindcaLeavesTheSentinel : Prop :=
  ∀ (s t : State) (rr : Responder), s.atRest → s.responder = some rr → rr.regs.wf = true → exec .findca s = .next t →
    let addressed := fun k : Nibble => latched s.cfg (k ++ s.cfg.scanReg) rr
    let tried := fun k : Nibble => t.resp = .notFound ∨ ∃ c : Nibble, t.resp = .found (c ++ 0#4) ∧ k ≤ c
    ∃ rr', t.responder = some rr' ∧
      (∀ k, tried k → (addressed k).selected = true → rr'.regs.read (addressed k).laReg.toNat =
        rr.kept (addressed k).laReg (rr.seen s.cfg.dataConn s.cfg.scanSentinel)) ∧
      ((∀ k, tried k → (addressed k).selected = false) → ∀ x, rr'.regs.read x = rr.regs.read x) ∧
      (s.cfg.dataConn &&& 0x0F = 0x0F → ∀ k, (addressed k).laReg = s.cfg.scanReg)
end

