-- ==== Sys2Proof/Laws/Memory.lean ====
section
/-! SUPPORT. The memory laws: a write keeps the canonical form, is read back, and leaves every other address alone;
and the same of the reference responder's store. -/

namespace Sys2Proof.Machine

theorem Memory.wfFrom_mono {m : Memory} {lo hi : Nat} (h : lo ≤ hi) (w : Memory.wfFrom hi m = true) :
    Memory.wfFrom lo m = true := by
  cases m with
  | nil => rfl
  | cons c rest =>
    obtain ⟨k, v⟩ := c
    simp only [Memory.wfFrom, Bool.and_eq_true, decide_eq_true_eq] at w ⊢
    exact ⟨⟨h.trans w.1.1, w.1.2⟩, w.2⟩

theorem Memory.put_wfFrom {lo a : Nat} {b : Byte} {rest : Memory} (h : lo ≤ a)
    (w : Memory.wfFrom (a + 1) rest = true) : Memory.wfFrom lo (Memory.put a b rest) = true := by
  unfold Memory.put
  split
  · exact Memory.wfFrom_mono (by omega) w
  · simp_all [Memory.wfFrom]

/-- A write above the lowest address allowed keeps the canonical form. -/
theorem Memory.write_wfFrom {m : Memory} {lo a : Nat} {b : Byte} (h : lo ≤ a) (w : Memory.wfFrom lo m = true) :
    Memory.wfFrom lo (Memory.write m a b) = true := by
  induction m generalizing lo with
  | nil => exact Memory.put_wfFrom h rfl
  | cons c rest ih =>
    obtain ⟨k, v⟩ := c
    have w' := w
    simp only [Memory.wfFrom, Bool.and_eq_true, decide_eq_true_eq] at w
    obtain ⟨⟨hk, hv⟩, hr⟩ := w
    simp only [Memory.write]
    split
    · exact Memory.put_wfFrom h (by simp [Memory.wfFrom, hv, hr]; omega)
    · split
      · subst_vars; exact Memory.put_wfFrom h hr
      · simp [Memory.wfFrom, hk, hv, ih (show k + 1 ≤ a by omega) hr]

theorem Memory.write_wf {m : Memory} (a : Nat) (b : Byte) (w : m.wf = true) : (m.write a b).wf = true :=
  Memory.write_wfFrom (Nat.zero_le a) w

theorem Memory.empty_wf : Memory.wf [] = true := rfl

/-- Below the lowest address allowed nothing is listed. -/
theorem Memory.read_below {m : Memory} {lo a : Nat} (h : a < lo) (w : Memory.wfFrom lo m = true) :
    Memory.read m a = Memory.unlisted := by
  induction m generalizing lo with
  | nil => rfl
  | cons c rest ih =>
    obtain ⟨k, v⟩ := c
    simp only [Memory.wfFrom, Bool.and_eq_true, decide_eq_true_eq] at w
    simp only [Memory.read]
    rw [if_neg (by omega), ih (by omega) w.2]

theorem Memory.read_put_same {a : Nat} {b : Byte} {rest : Memory} (w : Memory.wfFrom (a + 1) rest = true) :
    Memory.read (Memory.put a b rest) a = b := by
  unfold Memory.put
  split
  · rename_i hb
    rw [Memory.read_below (Nat.lt_succ_self a) w, hb]
  · simp [Memory.read]

theorem Memory.read_put_other {a x : Nat} {b : Byte} {rest : Memory} (hx : x ≠ a) :
    Memory.read (Memory.put a b rest) x = Memory.read rest x := by
  unfold Memory.put
  split
  · rfl
  · simp [Memory.read, Ne.symm hx]

/-- A read after a write to the same address gives the byte written. -/
theorem Memory.read_write_same {m : Memory} {lo : Nat} (a : Nat) (b : Byte) (w : Memory.wfFrom lo m = true) :
    (Memory.write m a b).read a = b := by
  induction m generalizing lo with
  | nil => exact Memory.read_put_same rfl
  | cons c rest ih =>
    obtain ⟨k, v⟩ := c
    simp only [Memory.wfFrom, Bool.and_eq_true, decide_eq_true_eq] at w
    obtain ⟨⟨hk, hv⟩, hr⟩ := w
    simp only [Memory.write]
    split
    · exact Memory.read_put_same (by simp [Memory.wfFrom, hv, hr]; omega)
    · split
      · subst_vars; exact Memory.read_put_same hr
      · rw [Memory.read, if_neg (by omega), ih hr]

/-- A write leaves every other address alone. -/
theorem Memory.read_write_other {m : Memory} {a x : Nat} (b : Byte) (hx : x ≠ a) :
    (Memory.write m a b).read x = m.read x := by
  induction m with
  | nil => exact Memory.read_put_other hx
  | cons c rest ih =>
    obtain ⟨k, v⟩ := c
    simp only [Memory.write]
    split
    · exact Memory.read_put_other hx
    · split
      · subst_vars
        rw [Memory.read_put_other hx, Memory.read, if_neg (Ne.symm hx)]
      · simp only [Memory.read, ih]

/-- Everything a write can show a reader. -/
theorem Memory.read_write {m : Memory} (a x : Nat) (b : Byte) (w : m.wf = true) :
    (m.write a b).read x = if x = a then b else m.read x := by
  split
  · rename_i h; rw [h]; exact Memory.read_write_same a b w
  · exact Memory.read_write_other b ‹_›

@[simp] theorem Responder.latch_la (rr : Responder) (b : Byte) : (rr.latch b).la = b := rfl
@[simp] theorem Responder.latch_addr (rr : Responder) (b : Byte) : (rr.latch b).addr = rr.addr := rfl
@[simp] theorem Responder.latch_float (rr : Responder) (b : Byte) : (rr.latch b).float = rr.float := rfl
@[simp] theorem Responder.latch_mask (rr : Responder) (b : Byte) : (rr.latch b).mask = rr.mask := rfl
@[simp] theorem Responder.latch_regs (rr : Responder) (b : Byte) : (rr.latch b).regs = rr.regs := rfl

@[simp] theorem Responder.store_la (rr : Responder) (b : Byte) : (rr.store b).la = rr.la := by
  unfold Responder.store; split <;> rfl
@[simp] theorem Responder.store_addr (rr : Responder) (b : Byte) : (rr.store b).addr = rr.addr := by
  unfold Responder.store; split <;> rfl
@[simp] theorem Responder.store_float (rr : Responder) (b : Byte) : (rr.store b).float = rr.float := by
  unfold Responder.store; split <;> rfl
@[simp] theorem Responder.store_mask (rr : Responder) (b : Byte) : (rr.store b).mask = rr.mask := by
  unfold Responder.store; split <;> rfl

/-- What a store leaves in the register file (R79): the latched register, if selected, and no other. -/
theorem Responder.store_read (rr : Responder) (b : Byte) (w : rr.regs.wf = true) (x : Nat) :
    (rr.store b).regs.read x =
      if rr.selected = true ∧ x = rr.laReg.toNat then rr.kept rr.laReg b else rr.regs.read x := by
  unfold Responder.store
  split
  · rename_i h
    simp only [h, true_and]
    exact Memory.read_write _ _ _ w
  · simp_all

theorem Responder.store_wf (rr : Responder) (b : Byte) (w : rr.regs.wf = true) : (rr.store b).regs.wf = true := by
  unfold Responder.store
  split
  · exact Memory.write_wf _ _ w
  · exact w

/-- Every reaction keeps the register file canonical. -/
theorem Responder.observe_wf (v : Variant) (driven level : Byte) (e : Event) (rr : Responder)
    (w : rr.regs.wf = true) : (rr.observe v driven level e).regs.wf = true := by
  cases e <;> simp only [Responder.observe] <;> try exact w
  · split
    · exact w
    · split
      · exact Responder.store_wf _ _ w
      · exact w
  · rfl

/-- Every reaction leaves the addresses beyond the 16 registers alone, but for a reset, which clears. -/
theorem Responder.observe_read_high (v : Variant) (driven level : Byte) (e : Event) (rr : Responder)
    (w : rr.regs.wf = true) {x : Nat} (hx : 16 ≤ x) (h0 : rr.regs.read x = 0) :
    (rr.observe v driven level e).regs.read x = 0 := by
  have hne : x ≠ rr.laReg.toNat := by have := rr.laReg.isLt; omega
  cases e <;> simp only [Responder.observe] <;> try exact h0
  · split
    · exact h0
    · split
      · rw [Responder.store_read _ _ w]; simp [hne, h0]
      · exact h0
  · rfl

end Sys2Proof.Machine
end

