-- ==== Sys2Proof/Laws/State.lean ====
section
/-! SUPPORT. One lemma per field per named update, so that no later proof unfolds a record update. The `responder` and
`trace` of an event-emitting update stand in Laws/Events.lean. -/

namespace Sys2Proof.Machine

@[simp] theorem emit_cfg (e : Event) (s : State) : (emit e s).cfg = s.cfg := rfl
@[simp] theorem emit_init (e : Event) (s : State) : (emit e s).init = s.init := rfl
@[simp] theorem emit_mode (e : Event) (s : State) : (emit e s).mode = s.mode := rfl
@[simp] theorem emit_dbusDir (e : Event) (s : State) : (emit e s).dbusDir = s.dbusDir := rfl
@[simp] theorem emit_dbusOut (e : Event) (s : State) : (emit e s).dbusOut = s.dbusOut := rfl
@[simp] theorem emit_ca (e : Event) (s : State) : (emit e s).ca = s.ca := rfl
@[simp] theorem emit_hostIe (e : Event) (s : State) : (emit e s).hostIe = s.hostIe := rfl
@[simp] theorem emit_ieSaved (e : Event) (s : State) : (emit e s).ieSaved = s.ieSaved := rfl
@[simp] theorem emit_crit (e : Event) (s : State) : (emit e s).crit = s.crit := rfl
@[simp] theorem emit_upc (e : Event) (s : State) : (emit e s).upc = s.upc + 1 := rfl
@[simp] theorem emit_cand (e : Event) (s : State) : (emit e s).cand = s.cand := rfl
@[simp] theorem emit_stop (e : Event) (s : State) : (emit e s).stop = s.stop := rfl
@[simp] theorem emit_resp (e : Event) (s : State) : (emit e s).resp = s.resp := rfl
@[simp] theorem emit_trace (e : Event) (s : State) : (emit e s).trace = s.trace ++ [e] := rfl
@[simp] theorem emit_port (e : Event) (s : State) : (emit e s).port = s.port := rfl
@[simp] theorem emit_draws (e : Event) (s : State) : (emit e s).draws = s.draws := rfl

@[simp] theorem ctlDrive_cfg (set : List (Line × Bool)) (s : State) : (ctlDrive set s).cfg = s.cfg := rfl
@[simp] theorem ctlDrive_init (set : List (Line × Bool)) (s : State) : (ctlDrive set s).init = s.init := rfl
@[simp] theorem ctlDrive_mode (set : List (Line × Bool)) (s : State) : (ctlDrive set s).mode = s.mode := rfl
@[simp] theorem ctlDrive_dbusDir (set : List (Line × Bool)) (s : State) : (ctlDrive set s).dbusDir = s.dbusDir := rfl
@[simp] theorem ctlDrive_dbusOut (set : List (Line × Bool)) (s : State) : (ctlDrive set s).dbusOut = s.dbusOut := rfl
@[simp] theorem ctlDrive_ca (set : List (Line × Bool)) (s : State) : (ctlDrive set s).ca = s.ca := rfl
@[simp] theorem ctlDrive_hostIe (set : List (Line × Bool)) (s : State) : (ctlDrive set s).hostIe = s.hostIe := rfl
@[simp] theorem ctlDrive_ieSaved (set : List (Line × Bool)) (s : State) : (ctlDrive set s).ieSaved = s.ieSaved := rfl
@[simp] theorem ctlDrive_crit (set : List (Line × Bool)) (s : State) : (ctlDrive set s).crit = s.crit := rfl
@[simp] theorem ctlDrive_upc (set : List (Line × Bool)) (s : State) : (ctlDrive set s).upc = s.upc + 1 := rfl
@[simp] theorem ctlDrive_cand (set : List (Line × Bool)) (s : State) : (ctlDrive set s).cand = s.cand := rfl
@[simp] theorem ctlDrive_stop (set : List (Line × Bool)) (s : State) : (ctlDrive set s).stop = s.stop := rfl
@[simp] theorem ctlDrive_resp (set : List (Line × Bool)) (s : State) : (ctlDrive set s).resp = s.resp := rfl
@[simp] theorem ctlDrive_trace (set : List (Line × Bool)) (s : State) : (ctlDrive set s).trace = s.trace ++ [.ctl (connectedOnly s.cfg set)] := rfl
@[simp] theorem ctlDrive_port (set : List (Line × Bool)) (s : State) : (ctlDrive set s).port = s.port := rfl
@[simp] theorem ctlDrive_draws (set : List (Line × Bool)) (s : State) : (ctlDrive set s).draws = s.draws := rfl

@[simp] theorem setMode_cfg (m : ModeCode) (s : State) : (setMode m s).cfg = s.cfg := rfl
@[simp] theorem setMode_init (m : ModeCode) (s : State) : (setMode m s).init = s.init := rfl
@[simp] theorem setMode_mode (m : ModeCode) (s : State) : (setMode m s).mode = some m := rfl
@[simp] theorem setMode_dbusDir (m : ModeCode) (s : State) : (setMode m s).dbusDir = s.dbusDir := rfl
@[simp] theorem setMode_dbusOut (m : ModeCode) (s : State) : (setMode m s).dbusOut = s.dbusOut := rfl
@[simp] theorem setMode_ca (m : ModeCode) (s : State) : (setMode m s).ca = s.ca := rfl
@[simp] theorem setMode_hostIe (m : ModeCode) (s : State) : (setMode m s).hostIe = s.hostIe := rfl
@[simp] theorem setMode_ieSaved (m : ModeCode) (s : State) : (setMode m s).ieSaved = s.ieSaved := rfl
@[simp] theorem setMode_crit (m : ModeCode) (s : State) : (setMode m s).crit = s.crit := rfl
@[simp] theorem setMode_upc (m : ModeCode) (s : State) : (setMode m s).upc = s.upc := rfl
@[simp] theorem setMode_cand (m : ModeCode) (s : State) : (setMode m s).cand = s.cand := rfl
@[simp] theorem setMode_stop (m : ModeCode) (s : State) : (setMode m s).stop = s.stop := rfl
@[simp] theorem setMode_resp (m : ModeCode) (s : State) : (setMode m s).resp = s.resp := rfl
@[simp] theorem setMode_trace (m : ModeCode) (s : State) : (setMode m s).trace = s.trace := rfl
@[simp] theorem setMode_port (m : ModeCode) (s : State) : (setMode m s).port = s.port := rfl
@[simp] theorem setMode_responder (m : ModeCode) (s : State) : (setMode m s).responder = s.responder := rfl
@[simp] theorem setMode_draws (m : ModeCode) (s : State) : (setMode m s).draws = s.draws := rfl

@[simp] theorem busDrive_cfg (v : Byte) (s : State) : (busDrive v s).cfg = s.cfg := rfl
@[simp] theorem busDrive_init (v : Byte) (s : State) : (busDrive v s).init = s.init := rfl
@[simp] theorem busDrive_mode (v : Byte) (s : State) : (busDrive v s).mode = s.mode := rfl
@[simp] theorem busDrive_dbusDir (v : Byte) (s : State) : (busDrive v s).dbusDir = s.dbusDir := rfl
@[simp] theorem busDrive_dbusOut (v : Byte) (s : State) : (busDrive v s).dbusOut = some v := rfl
@[simp] theorem busDrive_ca (v : Byte) (s : State) : (busDrive v s).ca = s.ca := rfl
@[simp] theorem busDrive_hostIe (v : Byte) (s : State) : (busDrive v s).hostIe = s.hostIe := rfl
@[simp] theorem busDrive_ieSaved (v : Byte) (s : State) : (busDrive v s).ieSaved = s.ieSaved := rfl
@[simp] theorem busDrive_crit (v : Byte) (s : State) : (busDrive v s).crit = s.crit := rfl
@[simp] theorem busDrive_upc (v : Byte) (s : State) : (busDrive v s).upc = s.upc + 1 := rfl
@[simp] theorem busDrive_cand (v : Byte) (s : State) : (busDrive v s).cand = s.cand := rfl
@[simp] theorem busDrive_stop (v : Byte) (s : State) : (busDrive v s).stop = s.stop := rfl
@[simp] theorem busDrive_resp (v : Byte) (s : State) : (busDrive v s).resp = s.resp := rfl
@[simp] theorem busDrive_trace (v : Byte) (s : State) : (busDrive v s).trace = s.trace ++ [.drive v] := rfl
@[simp] theorem busDrive_port (v : Byte) (s : State) : (busDrive v s).port = s.port := rfl
@[simp] theorem busDrive_draws (v : Byte) (s : State) : (busDrive v s).draws = s.draws := rfl

@[simp] theorem setBusDir_cfg (d : BusDir) (s : State) : (setBusDir d s).cfg = s.cfg := rfl
@[simp] theorem setBusDir_init (d : BusDir) (s : State) : (setBusDir d s).init = s.init := rfl
@[simp] theorem setBusDir_mode (d : BusDir) (s : State) : (setBusDir d s).mode = s.mode := rfl
@[simp] theorem setBusDir_dbusDir (d : BusDir) (s : State) : (setBusDir d s).dbusDir = d := rfl
@[simp] theorem setBusDir_dbusOut (d : BusDir) (s : State) : (setBusDir d s).dbusOut = s.dbusOut := rfl
@[simp] theorem setBusDir_ca (d : BusDir) (s : State) : (setBusDir d s).ca = s.ca := rfl
@[simp] theorem setBusDir_hostIe (d : BusDir) (s : State) : (setBusDir d s).hostIe = s.hostIe := rfl
@[simp] theorem setBusDir_ieSaved (d : BusDir) (s : State) : (setBusDir d s).ieSaved = s.ieSaved := rfl
@[simp] theorem setBusDir_crit (d : BusDir) (s : State) : (setBusDir d s).crit = s.crit := rfl
@[simp] theorem setBusDir_upc (d : BusDir) (s : State) : (setBusDir d s).upc = s.upc + 1 := rfl
@[simp] theorem setBusDir_cand (d : BusDir) (s : State) : (setBusDir d s).cand = s.cand := rfl
@[simp] theorem setBusDir_stop (d : BusDir) (s : State) : (setBusDir d s).stop = s.stop := rfl
@[simp] theorem setBusDir_resp (d : BusDir) (s : State) : (setBusDir d s).resp = s.resp := rfl
@[simp] theorem setBusDir_trace (d : BusDir) (s : State) : (setBusDir d s).trace = s.trace ++ [.dir d] := rfl
@[simp] theorem setBusDir_port (d : BusDir) (s : State) : (setBusDir d s).port = s.port := rfl
@[simp] theorem setBusDir_draws (d : BusDir) (s : State) : (setBusDir d s).draws = s.draws := rfl

@[simp] theorem edgeStep_cfg (src dst : ModeCode) (s : State) : (edgeStep src dst s).cfg = s.cfg := rfl
@[simp] theorem edgeStep_init (src dst : ModeCode) (s : State) : (edgeStep src dst s).init = s.init := rfl
@[simp] theorem edgeStep_mode (src dst : ModeCode) (s : State) : (edgeStep src dst s).mode = some dst := rfl
@[simp] theorem edgeStep_dbusDir (src dst : ModeCode) (s : State) : (edgeStep src dst s).dbusDir = s.dbusDir := rfl
@[simp] theorem edgeStep_dbusOut (src dst : ModeCode) (s : State) : (edgeStep src dst s).dbusOut = s.dbusOut := rfl
@[simp] theorem edgeStep_ca (src dst : ModeCode) (s : State) : (edgeStep src dst s).ca = s.ca := rfl
@[simp] theorem edgeStep_hostIe (src dst : ModeCode) (s : State) : (edgeStep src dst s).hostIe = s.hostIe := rfl
@[simp] theorem edgeStep_ieSaved (src dst : ModeCode) (s : State) : (edgeStep src dst s).ieSaved = s.ieSaved := rfl
@[simp] theorem edgeStep_crit (src dst : ModeCode) (s : State) : (edgeStep src dst s).crit = s.crit := rfl
@[simp] theorem edgeStep_upc (src dst : ModeCode) (s : State) : (edgeStep src dst s).upc = s.upc + 2 := rfl
@[simp] theorem edgeStep_cand (src dst : ModeCode) (s : State) : (edgeStep src dst s).cand = s.cand := rfl
@[simp] theorem edgeStep_stop (src dst : ModeCode) (s : State) : (edgeStep src dst s).stop = s.stop := rfl
@[simp] theorem edgeStep_resp (src dst : ModeCode) (s : State) : (edgeStep src dst s).resp = s.resp := rfl
@[simp] theorem edgeStep_port (src dst : ModeCode) (s : State) : (edgeStep src dst s).port = s.port := rfl
@[simp] theorem edgeStep_draws (src dst : ModeCode) (s : State) : (edgeStep src dst s).draws = s.draws := rfl

@[simp] theorem respond_cfg (r : Response) (s : State) : (respond r s).cfg = s.cfg := rfl
@[simp] theorem respond_init (r : Response) (s : State) : (respond r s).init = s.init := rfl
@[simp] theorem respond_mode (r : Response) (s : State) : (respond r s).mode = s.mode := rfl
@[simp] theorem respond_dbusDir (r : Response) (s : State) : (respond r s).dbusDir = s.dbusDir := rfl
@[simp] theorem respond_dbusOut (r : Response) (s : State) : (respond r s).dbusOut = s.dbusOut := rfl
@[simp] theorem respond_ca (r : Response) (s : State) : (respond r s).ca = s.ca := rfl
@[simp] theorem respond_hostIe (r : Response) (s : State) : (respond r s).hostIe = s.hostIe := rfl
@[simp] theorem respond_ieSaved (r : Response) (s : State) : (respond r s).ieSaved = s.ieSaved := rfl
@[simp] theorem respond_crit (r : Response) (s : State) : (respond r s).crit = s.crit := rfl
@[simp] theorem respond_upc (r : Response) (s : State) : (respond r s).upc = 0 := rfl
@[simp] theorem respond_cand (r : Response) (s : State) : (respond r s).cand = s.cand := rfl
@[simp] theorem respond_stop (r : Response) (s : State) : (respond r s).stop = s.stop := rfl
@[simp] theorem respond_resp (r : Response) (s : State) : (respond r s).resp = r := rfl
@[simp] theorem respond_trace (r : Response) (s : State) : (respond r s).trace = s.trace := rfl
@[simp] theorem respond_port (r : Response) (s : State) : (respond r s).port = s.port := rfl
@[simp] theorem respond_responder (r : Response) (s : State) : (respond r s).responder = s.responder := rfl
@[simp] theorem respond_draws (r : Response) (s : State) : (respond r s).draws = s.draws := rfl

@[simp] theorem raiseFault_cfg (c : FaultCode) (s : State) : (raiseFault c s).cfg = s.cfg := rfl
@[simp] theorem raiseFault_init (c : FaultCode) (s : State) : (raiseFault c s).init = s.init := rfl
@[simp] theorem raiseFault_mode (c : FaultCode) (s : State) : (raiseFault c s).mode = s.mode := rfl
@[simp] theorem raiseFault_dbusDir (c : FaultCode) (s : State) : (raiseFault c s).dbusDir = s.dbusDir := rfl
@[simp] theorem raiseFault_dbusOut (c : FaultCode) (s : State) : (raiseFault c s).dbusOut = s.dbusOut := rfl
@[simp] theorem raiseFault_ca (c : FaultCode) (s : State) : (raiseFault c s).ca = s.ca := rfl
@[simp] theorem raiseFault_hostIe (c : FaultCode) (s : State) : (raiseFault c s).hostIe = s.hostIe := rfl
@[simp] theorem raiseFault_ieSaved (c : FaultCode) (s : State) : (raiseFault c s).ieSaved = s.ieSaved := rfl
@[simp] theorem raiseFault_crit (c : FaultCode) (s : State) : (raiseFault c s).crit = s.crit := rfl
@[simp] theorem raiseFault_upc (c : FaultCode) (s : State) : (raiseFault c s).upc = s.upc := rfl
@[simp] theorem raiseFault_cand (c : FaultCode) (s : State) : (raiseFault c s).cand = s.cand := rfl
@[simp] theorem raiseFault_stop (c : FaultCode) (s : State) : (raiseFault c s).stop = .fault c := rfl
@[simp] theorem raiseFault_resp (c : FaultCode) (s : State) : (raiseFault c s).resp = s.resp := rfl
@[simp] theorem raiseFault_trace (c : FaultCode) (s : State) : (raiseFault c s).trace = s.trace := rfl
@[simp] theorem raiseFault_port (c : FaultCode) (s : State) : (raiseFault c s).port = s.port := rfl
@[simp] theorem raiseFault_responder (c : FaultCode) (s : State) : (raiseFault c s).responder = s.responder := rfl
@[simp] theorem raiseFault_draws (c : FaultCode) (s : State) : (raiseFault c s).draws = s.draws := rfl

@[simp] theorem refuse_cfg (c : RefusalCode) (s : State) : (refuse c s).cfg = s.cfg := rfl
@[simp] theorem refuse_init (c : RefusalCode) (s : State) : (refuse c s).init = s.init := rfl
@[simp] theorem refuse_mode (c : RefusalCode) (s : State) : (refuse c s).mode = s.mode := rfl
@[simp] theorem refuse_dbusDir (c : RefusalCode) (s : State) : (refuse c s).dbusDir = s.dbusDir := rfl
@[simp] theorem refuse_dbusOut (c : RefusalCode) (s : State) : (refuse c s).dbusOut = s.dbusOut := rfl
@[simp] theorem refuse_ca (c : RefusalCode) (s : State) : (refuse c s).ca = s.ca := rfl
@[simp] theorem refuse_hostIe (c : RefusalCode) (s : State) : (refuse c s).hostIe = s.hostIe := rfl
@[simp] theorem refuse_ieSaved (c : RefusalCode) (s : State) : (refuse c s).ieSaved = s.ieSaved := rfl
@[simp] theorem refuse_crit (c : RefusalCode) (s : State) : (refuse c s).crit = s.crit := rfl
@[simp] theorem refuse_upc (c : RefusalCode) (s : State) : (refuse c s).upc = s.upc := rfl
@[simp] theorem refuse_cand (c : RefusalCode) (s : State) : (refuse c s).cand = s.cand := rfl
@[simp] theorem refuse_stop (c : RefusalCode) (s : State) : (refuse c s).stop = .refused c := rfl
@[simp] theorem refuse_resp (c : RefusalCode) (s : State) : (refuse c s).resp = s.resp := rfl
@[simp] theorem refuse_trace (c : RefusalCode) (s : State) : (refuse c s).trace = s.trace := rfl
@[simp] theorem refuse_port (c : RefusalCode) (s : State) : (refuse c s).port = s.port := rfl
@[simp] theorem refuse_responder (c : RefusalCode) (s : State) : (refuse c s).responder = s.responder := rfl
@[simp] theorem refuse_draws (c : RefusalCode) (s : State) : (refuse c s).draws = s.draws := rfl

@[simp] theorem critEnter_cfg (s : State) : (critEnter s).cfg = s.cfg := rfl
@[simp] theorem critEnter_init (s : State) : (critEnter s).init = s.init := rfl
@[simp] theorem critEnter_mode (s : State) : (critEnter s).mode = s.mode := rfl
@[simp] theorem critEnter_dbusDir (s : State) : (critEnter s).dbusDir = s.dbusDir := rfl
@[simp] theorem critEnter_dbusOut (s : State) : (critEnter s).dbusOut = s.dbusOut := rfl
@[simp] theorem critEnter_ca (s : State) : (critEnter s).ca = s.ca := rfl
@[simp] theorem critEnter_hostIe (s : State) : (critEnter s).hostIe = false := rfl
@[simp] theorem critEnter_ieSaved (s : State) : (critEnter s).ieSaved = some s.hostIe := rfl
@[simp] theorem critEnter_crit (s : State) : (critEnter s).crit = true := rfl
@[simp] theorem critEnter_upc (s : State) : (critEnter s).upc = s.upc + 1 := rfl
@[simp] theorem critEnter_cand (s : State) : (critEnter s).cand = s.cand := rfl
@[simp] theorem critEnter_stop (s : State) : (critEnter s).stop = s.stop := rfl
@[simp] theorem critEnter_resp (s : State) : (critEnter s).resp = s.resp := rfl
@[simp] theorem critEnter_trace (s : State) : (critEnter s).trace = s.trace ++ [.crit .enter s.hostIe] := rfl
@[simp] theorem critEnter_port (s : State) : (critEnter s).port = s.port := rfl
@[simp] theorem critEnter_draws (s : State) : (critEnter s).draws = s.draws := rfl

@[simp] theorem critExit_cfg (s : State) : (critExit s).cfg = s.cfg := rfl
@[simp] theorem critExit_init (s : State) : (critExit s).init = s.init := rfl
@[simp] theorem critExit_mode (s : State) : (critExit s).mode = s.mode := rfl
@[simp] theorem critExit_dbusDir (s : State) : (critExit s).dbusDir = s.dbusDir := rfl
@[simp] theorem critExit_dbusOut (s : State) : (critExit s).dbusOut = s.dbusOut := rfl
@[simp] theorem critExit_ca (s : State) : (critExit s).ca = s.ca := rfl
@[simp] theorem critExit_hostIe (s : State) : (critExit s).hostIe = savedIe s := rfl
@[simp] theorem critExit_ieSaved (s : State) : (critExit s).ieSaved = s.ieSaved := rfl
@[simp] theorem critExit_crit (s : State) : (critExit s).crit = false := rfl
@[simp] theorem critExit_upc (s : State) : (critExit s).upc = s.upc + 1 := rfl
@[simp] theorem critExit_cand (s : State) : (critExit s).cand = s.cand := rfl
@[simp] theorem critExit_stop (s : State) : (critExit s).stop = s.stop := rfl
@[simp] theorem critExit_resp (s : State) : (critExit s).resp = s.resp := rfl
@[simp] theorem critExit_trace (s : State) : (critExit s).trace = s.trace ++ [.crit .exit (savedIe s)] := rfl
@[simp] theorem critExit_port (s : State) : (critExit s).port = s.port := rfl
@[simp] theorem critExit_draws (s : State) : (critExit s).draws = s.draws := rfl

@[simp] theorem setChipAddress_cfg (x : Byte) (s : State) : (setChipAddress x s).cfg = s.cfg := rfl
@[simp] theorem setChipAddress_init (x : Byte) (s : State) : (setChipAddress x s).init = s.init := rfl
@[simp] theorem setChipAddress_mode (x : Byte) (s : State) : (setChipAddress x s).mode = s.mode := rfl
@[simp] theorem setChipAddress_dbusDir (x : Byte) (s : State) : (setChipAddress x s).dbusDir = s.dbusDir := rfl
@[simp] theorem setChipAddress_dbusOut (x : Byte) (s : State) : (setChipAddress x s).dbusOut = s.dbusOut := rfl
@[simp] theorem setChipAddress_ca (x : Byte) (s : State) : (setChipAddress x s).ca = topNibble x := rfl
@[simp] theorem setChipAddress_hostIe (x : Byte) (s : State) : (setChipAddress x s).hostIe = s.hostIe := rfl
@[simp] theorem setChipAddress_ieSaved (x : Byte) (s : State) : (setChipAddress x s).ieSaved = s.ieSaved := rfl
@[simp] theorem setChipAddress_crit (x : Byte) (s : State) : (setChipAddress x s).crit = s.crit := rfl
@[simp] theorem setChipAddress_upc (x : Byte) (s : State) : (setChipAddress x s).upc = s.upc := rfl
@[simp] theorem setChipAddress_cand (x : Byte) (s : State) : (setChipAddress x s).cand = s.cand := rfl
@[simp] theorem setChipAddress_stop (x : Byte) (s : State) : (setChipAddress x s).stop = s.stop := rfl
@[simp] theorem setChipAddress_resp (x : Byte) (s : State) : (setChipAddress x s).resp = s.resp := rfl
@[simp] theorem setChipAddress_trace (x : Byte) (s : State) : (setChipAddress x s).trace = s.trace := rfl
@[simp] theorem setChipAddress_port (x : Byte) (s : State) : (setChipAddress x s).port = s.port := rfl
@[simp] theorem setChipAddress_responder (x : Byte) (s : State) : (setChipAddress x s).responder = s.responder := rfl
@[simp] theorem setChipAddress_draws (x : Byte) (s : State) : (setChipAddress x s).draws = s.draws := rfl

@[simp] theorem setInit_cfg (s : State) : (setInit s).cfg = s.cfg := rfl
@[simp] theorem setInit_init (s : State) : (setInit s).init = true := rfl
@[simp] theorem setInit_mode (s : State) : (setInit s).mode = s.mode := rfl
@[simp] theorem setInit_dbusDir (s : State) : (setInit s).dbusDir = s.dbusDir := rfl
@[simp] theorem setInit_dbusOut (s : State) : (setInit s).dbusOut = s.dbusOut := rfl
@[simp] theorem setInit_ca (s : State) : (setInit s).ca = s.ca := rfl
@[simp] theorem setInit_hostIe (s : State) : (setInit s).hostIe = s.hostIe := rfl
@[simp] theorem setInit_ieSaved (s : State) : (setInit s).ieSaved = s.ieSaved := rfl
@[simp] theorem setInit_crit (s : State) : (setInit s).crit = s.crit := rfl
@[simp] theorem setInit_upc (s : State) : (setInit s).upc = s.upc := rfl
@[simp] theorem setInit_cand (s : State) : (setInit s).cand = s.cand := rfl
@[simp] theorem setInit_stop (s : State) : (setInit s).stop = s.stop := rfl
@[simp] theorem setInit_resp (s : State) : (setInit s).resp = s.resp := rfl
@[simp] theorem setInit_trace (s : State) : (setInit s).trace = s.trace := rfl
@[simp] theorem setInit_port (s : State) : (setInit s).port = s.port := rfl
@[simp] theorem setInit_responder (s : State) : (setInit s).responder = s.responder := rfl
@[simp] theorem setInit_draws (s : State) : (setInit s).draws = s.draws := rfl

@[simp] theorem consume_cfg (rest : List HostInput) (s : State) : (consume rest s).cfg = s.cfg := rfl
@[simp] theorem consume_init (rest : List HostInput) (s : State) : (consume rest s).init = s.init := rfl
@[simp] theorem consume_mode (rest : List HostInput) (s : State) : (consume rest s).mode = s.mode := rfl
@[simp] theorem consume_dbusDir (rest : List HostInput) (s : State) : (consume rest s).dbusDir = s.dbusDir := rfl
@[simp] theorem consume_dbusOut (rest : List HostInput) (s : State) : (consume rest s).dbusOut = s.dbusOut := rfl
@[simp] theorem consume_ca (rest : List HostInput) (s : State) : (consume rest s).ca = s.ca := rfl
@[simp] theorem consume_hostIe (rest : List HostInput) (s : State) : (consume rest s).hostIe = s.hostIe := rfl
@[simp] theorem consume_ieSaved (rest : List HostInput) (s : State) : (consume rest s).ieSaved = s.ieSaved := rfl
@[simp] theorem consume_crit (rest : List HostInput) (s : State) : (consume rest s).crit = s.crit := rfl
@[simp] theorem consume_upc (rest : List HostInput) (s : State) : (consume rest s).upc = s.upc := rfl
@[simp] theorem consume_cand (rest : List HostInput) (s : State) : (consume rest s).cand = s.cand := rfl
@[simp] theorem consume_stop (rest : List HostInput) (s : State) : (consume rest s).stop = s.stop := rfl
@[simp] theorem consume_resp (rest : List HostInput) (s : State) : (consume rest s).resp = s.resp := rfl
@[simp] theorem consume_trace (rest : List HostInput) (s : State) : (consume rest s).trace = s.trace := rfl
@[simp] theorem consume_port (rest : List HostInput) (s : State) : (consume rest s).port = rest := rfl
@[simp] theorem consume_responder (rest : List HostInput) (s : State) : (consume rest s).responder = s.responder := rfl
@[simp] theorem consume_draws (rest : List HostInput) (s : State) : (consume rest s).draws = s.draws := rfl

@[simp] theorem hostSetIe_cfg (b : Bool) (s : State) : (hostSetIe b s).cfg = s.cfg := rfl
@[simp] theorem hostSetIe_init (b : Bool) (s : State) : (hostSetIe b s).init = s.init := rfl
@[simp] theorem hostSetIe_mode (b : Bool) (s : State) : (hostSetIe b s).mode = s.mode := rfl
@[simp] theorem hostSetIe_dbusDir (b : Bool) (s : State) : (hostSetIe b s).dbusDir = s.dbusDir := rfl
@[simp] theorem hostSetIe_dbusOut (b : Bool) (s : State) : (hostSetIe b s).dbusOut = s.dbusOut := rfl
@[simp] theorem hostSetIe_ca (b : Bool) (s : State) : (hostSetIe b s).ca = s.ca := rfl
@[simp] theorem hostSetIe_hostIe (b : Bool) (s : State) : (hostSetIe b s).hostIe = b := rfl
@[simp] theorem hostSetIe_ieSaved (b : Bool) (s : State) : (hostSetIe b s).ieSaved = s.ieSaved := rfl
@[simp] theorem hostSetIe_crit (b : Bool) (s : State) : (hostSetIe b s).crit = s.crit := rfl
@[simp] theorem hostSetIe_upc (b : Bool) (s : State) : (hostSetIe b s).upc = s.upc := rfl
@[simp] theorem hostSetIe_cand (b : Bool) (s : State) : (hostSetIe b s).cand = s.cand := rfl
@[simp] theorem hostSetIe_stop (b : Bool) (s : State) : (hostSetIe b s).stop = s.stop := rfl
@[simp] theorem hostSetIe_resp (b : Bool) (s : State) : (hostSetIe b s).resp = s.resp := rfl
@[simp] theorem hostSetIe_trace (b : Bool) (s : State) : (hostSetIe b s).trace = s.trace := rfl
@[simp] theorem hostSetIe_port (b : Bool) (s : State) : (hostSetIe b s).port = s.port := rfl
@[simp] theorem hostSetIe_responder (b : Bool) (s : State) : (hostSetIe b s).responder = s.responder := rfl
@[simp] theorem hostSetIe_draws (b : Bool) (s : State) : (hostSetIe b s).draws = s.draws := rfl

end Sys2Proof.Machine
end

