-- ==== Sys2Proof/Laws/Events.lean ====
section
/-! SUPPORT. What each shared operation does, said once: the events it appends and what the reference responder makes
of them. -/

namespace Sys2Proof.Machine

/-! The responder and one event. -/

@[simp] theorem observe_ctl (v : Variant) (d l : Byte) (set : List (Line × Bool)) :
    Responder.observe v d l (.ctl set) = id := rfl
@[simp] theorem observe_dir (v : Variant) (d l : Byte) (x : BusDir) :
    Responder.observe v d l (.dir x) = id := rfl
@[simp] theorem observe_drive (v : Variant) (d l : Byte) (x : Byte) :
    Responder.observe v d l (.drive x) = id := rfl
@[simp] theorem observe_sample (v : Variant) (d l : Byte) (i : Fin 8) (b : Bool) :
    Responder.observe v d l (.sample i b) = id := rfl
@[simp] theorem observe_crit (v : Variant) (d l : Byte) (x : CritEdge) (b : Bool) :
    Responder.observe v d l (.crit x b) = id := rfl
@[simp] theorem observe_holdWrite (v : Variant) (d l : Byte) : Responder.observe v d l .holdWrite = id := rfl
@[simp] theorem observe_initCtl (v : Variant) (d l : Byte) (set : List (Line × Bool)) :
    Responder.observe v d l (.initCtl set) = id := rfl
@[simp] theorem observe_resetPulse (v : Variant) (d l : Byte) :
    Responder.observe v d l .resetPulse = Responder.clear := rfl

/-- Entering LATCH_ADDR latches the byte seen (R78). -/
theorem observe_latch {v : Variant} {m : ModeCode} (d l : Byte) (src : Option ModeCode)
    (h : isLatch v m = true) :
    Responder.observe v d l (.mode src m) = fun rr => rr.latch (rr.seen d l) := by
  funext rr; simp [Responder.observe, h]

/-- Entering WRITE_DATA stores the byte seen (R79). -/
theorem observe_write {v : Variant} {m : ModeCode} (d l : Byte) (src : Option ModeCode)
    (h : isLatch v m = false) (hw : isWrite m = true) :
    Responder.observe v d l (.mode src m) = fun rr => rr.store (rr.seen d l) := by
  funext rr; simp [Responder.observe, h, hw]

/-- Entering any other mode leaves the responder alone (R82). -/
theorem observe_quiet {v : Variant} {m : ModeCode} (d l : Byte) (src : Option ModeCode)
    (h : isLatch v m = false) (hw : isWrite m = false) :
    Responder.observe v d l (.mode src m) = id := by
  funext rr; simp [Responder.observe, h, hw]

/-! The responder field of each update. -/

theorem emit_responder (e : Event) (s : State) :
    (emit e s).responder =
      s.responder.map (Responder.observe s.cfg.variant (drivenLines s) (latchLevel s) e) := rfl

@[simp] theorem ctlDrive_responder (set : List (Line × Bool)) (s : State) :
    (ctlDrive set s).responder = s.responder := by simp [ctlDrive, emit_responder]
@[simp] theorem busDrive_responder (v : Byte) (s : State) : (busDrive v s).responder = s.responder := by
  simp [busDrive, emit_responder]
@[simp] theorem setBusDir_responder (d : BusDir) (s : State) : (setBusDir d s).responder = s.responder := by
  simp [setBusDir, emit_responder]
@[simp] theorem critEnter_responder (s : State) : (critEnter s).responder = s.responder := by
  simp [critEnter, emit_responder]
@[simp] theorem critExit_responder (s : State) : (critExit s).responder = s.responder := by
  simp [critExit, emit_responder]
@[simp] theorem emit_holdWrite_responder (s : State) : (emit .holdWrite s).responder = s.responder := by
  simp [emit_responder]
@[simp] theorem emit_initCtl_responder (set : List (Line × Bool)) (s : State) :
    (emit (.initCtl set) s).responder = s.responder := by simp [emit_responder]
@[simp] theorem emit_sample_responder (i : Fin 8) (b : Bool) (s : State) :
    (emit (.sample i b) s).responder = s.responder := by simp [emit_responder]
@[simp] theorem emit_resetPulse_responder (s : State) :
    (emit .resetPulse s).responder = s.responder.map Responder.clear := by simp [emit_responder]

@[simp] theorem edgeStep_trace (src dst : ModeCode) (s : State) :
    (edgeStep src dst s).trace = s.trace ++ edgeEvents s.cfg src dst := by
  simp [edgeStep, edgeEvents]

theorem edgeStep_responder (src dst : ModeCode) (s : State) :
    (edgeStep src dst s).responder =
      s.responder.map (Responder.observe s.cfg.variant (drivenLines s) (latchLevel s) (.mode (some src) dst)) := by
  simp [edgeStep, emit_responder, drivenLines, latchLevel]

/-- An edge into an inactive or read mode does nothing to the responder. -/
theorem edgeStep_responder_quiet {src dst : ModeCode} {s : State} (h : isLatch s.cfg.variant dst = false)
    (hw : isWrite dst = false) : (edgeStep src dst s).responder = s.responder := by
  rw [edgeStep_responder, observe_quiet _ _ _ h hw]; simp

@[simp] theorem drivenLines_output {s : State} (h : s.dbusDir = .output) : drivenLines s = s.cfg.dataConn := by
  simp [drivenLines, h]

@[simp] theorem latchLevel_some {s : State} {v : Byte} (h : s.dbusOut = some v) : latchLevel s = v := by
  simp [latchLevel, h]

/-! BusOut and BusIn. -/

/-- Everything BusOut(v) does. -/
theorem busOut_eq (v : Byte) (s : State) :
    busOut v s = { s with
      dbusDir := .output, dbusOut := some v, trace := s.trace ++ busOutEvents v s.dbusDir,
      upc := s.upc + (busOutEvents v s.dbusDir).length } := by
  cases hd : s.dbusDir <;>
    simp [busOut, hd, busOutEvents, setBusDir, busDrive, emit, Nat.add_assoc]

/-- Everything BusIn() does. -/
theorem busIn_eq (s : State) :
    busIn s = { s with
      dbusDir := .input, trace := s.trace ++ busInEvents s.dbusDir,
      upc := s.upc + (busInEvents s.dbusDir).length } := by
  cases hd : s.dbusDir
  · cases s; simp_all [busIn, busInEvents]
  · simp [busIn, hd, busInEvents, setBusDir, emit]

end Sys2Proof.Machine
end

