-- ==== Sys2Proof/Laws/Transactions.lean ====
section
/-! SUPPORT. What each sequence of a transaction does, as one record update: cite these, and never unfold a
sequence. -/

namespace Sys2Proof.Machine

/-! Sampling. -/

/-- The bit drawn for line i as the n-th draw of a read started in `s`. -/
def drawnBit (s : State) (n : Nat) (i : Fin 8) : Bool :=
  match s.responder with
  | some rr => rr.answer s.mode i
  | none => Config.busOracle (s.draws + n)

/-- What the loop of SampleByte reads: a (line, bit) pair per connected line, `n` lines having been drawn before. -/
def sampledFrom (s : State) : List (Fin 8) → Nat → List (Fin 8 × Bool)
  | [], _ => []
  | i :: rest, n =>
    (if lineConnected s.cfg i then [(i, drawnBit s n i)] else []) ++
      sampledFrom s rest (n + if lineConnected s.cfg i then 1 else 0)

/-- The state after a read of the given pairs. -/
def afterSamples (s : State) (ps : List (Fin 8 × Bool)) : State :=
  { s with
    trace := s.trace ++ ps.map fun p => .sample p.1 p.2
    upc := s.upc + ps.length
    draws := s.draws + match s.responder with | some _ => 0 | none => ps.length }

@[simp] theorem afterSamples_nil (s : State) : afterSamples s [] = s := by
  cases s; simp [afterSamples]; split <;> rfl

theorem sample_eq (i : Fin 8) (s : State) :
    sample i s = (drawnBit s 0 i, afterSamples s [(i, drawnBit s 0 i)]) := by
  cases h : s.responder <;> simp [sample, oracleBit, drawnBit, afterSamples, h, emit]

theorem sampledFrom_afterSamples (s : State) (p : Fin 8 × Bool) (is : List (Fin 8)) (n : Nat) :
    sampledFrom (afterSamples s [p]) is n = sampledFrom s is (n + 1) := by
  induction is generalizing n with
  | nil => rfl
  | cons i rest ih =>
    have hb : drawnBit (afterSamples s [p]) n i = drawnBit s (n + 1) i := by
      cases h : s.responder <;> simp [drawnBit, afterSamples, h]
      congr 1; omega
    simp only [sampledFrom, ih, hb]
    simp [afterSamples, Nat.add_right_comm]

theorem afterSamples_append (s : State) (ps qs : List (Fin 8 × Bool)) :
    afterSamples (afterSamples s ps) qs = afterSamples s (ps ++ qs) := by
  cases h : s.responder <;>
    simp [afterSamples, h, List.append_assoc, Nat.add_assoc]

/-- The loop of SampleByte, as the pairs it reads. -/
theorem sampleLines_eq (is : List (Fin 8)) (v : Byte) (s : State) :
    sampleLines is v s =
      ((sampledFrom s is 0).foldl (fun v p => v ||| bitAt p.1 p.2) v, afterSamples s (sampledFrom s is 0)) := by
  induction is generalizing v s with
  | nil => simp [sampleLines, sampledFrom]
  | cons i rest ih =>
    by_cases h : lineConnected s.cfg i = true
    · simp [sampleLines, sampledFrom, h, sample_eq, ih, sampledFrom_afterSamples, afterSamples_append]
    · simp [sampleLines, sampledFrom, h, ih]

theorem drawnBefore_eq (cfg : Config) (i : Fin 8) :
    drawnBefore cfg i = (dataLines.filter fun j => decide (j < i) && lineConnected cfg j).length := by
  simp [drawnBefore, connectedLines, List.filter_filter]

/-- The pairs a whole read gets. -/
theorem sampledFrom_dataLines (s : State) :
    sampledFrom s dataLines 0 = (connectedLines s.cfg).map fun i => (i, bitRead s i) := by
  have step : ∀ (i : Fin 8) (n : Nat), n = drawnBefore s.cfg i →
      (if lineConnected s.cfg i then [(i, drawnBit s n i)] else []) =
        (if lineConnected s.cfg i then [(i, bitRead s i)] else []) := by
    intro i n hn
    split
    · cases h : s.responder <;> simp_all [drawnBit, bitRead]
    · rfl
  have split : ∀ is : List (Fin 8), ((is.filter (lineConnected s.cfg)).map fun i => (i, bitRead s i)) =
      is.flatMap fun i => if lineConnected s.cfg i then [(i, bitRead s i)] else [] := by
    intro is
    induction is with
    | nil => rfl
    | cons i rest ih => by_cases h : lineConnected s.cfg i = true <;> simp [h, ih]
  have count : ∀ (i : Fin 8), drawnBefore s.cfg i =
      (dataLines.map fun j => if j < i ∧ lineConnected s.cfg j = true then 1 else 0).sum := by
    intro i
    rw [drawnBefore_eq]
    generalize dataLines = is
    induction is with
    | nil => rfl
    | cons j rest ih =>
      by_cases h : j < i ∧ lineConnected s.cfg j = true
      · simp [h, ih, Nat.add_comm]
      · simp only [List.map_cons, if_neg h, List.sum_cons, Nat.zero_add, ← ih]
        rw [List.filter_cons_of_neg (by simpa using h)]
  rw [connectedLines, split]
  simp only [dataLines, sampledFrom, List.flatMap_cons, List.flatMap_nil]
  refine congrArg₂ _ (step 0 _ ?_) (congrArg₂ _ (step 1 _ ?_) (congrArg₂ _ (step 2 _ ?_)
    (congrArg₂ _ (step 3 _ ?_) (congrArg₂ _ (step 4 _ ?_) (congrArg₂ _ (step 5 _ ?_)
    (congrArg₂ _ (step 6 _ ?_) (congrArg₂ _ (step 7 _ ?_) rfl))))))) <;>
  · rw [count]; simp [dataLines, Nat.add_assoc]

theorem getLsbD_bitAt (i j : Fin 8) (b : Bool) : (bitAt i b).getLsbD j = (decide (j = i) && b) := by
  revert i j b; decide

theorem getLsbD_foldl_bitAt (ps : List (Fin 8 × Bool)) (v : Byte) (j : Fin 8) :
    (ps.foldl (fun v p => v ||| bitAt p.1 p.2) v).getLsbD j =
      (v.getLsbD j || ps.any fun p => decide (j = p.1) && p.2) := by
  induction ps generalizing v with
  | nil => simp
  | cons p rest ih =>
    rw [List.foldl_cons, ih, BitVec.getLsbD_or, getLsbD_bitAt, List.any_cons, Bool.or_assoc]

/-- The byte SampleByte returns, bit by bit (R163, R165). -/
theorem sampleByte_bits (s : State) (i : Fin 8) : (sampleByte s).1.getLsbD i = bitRead s i := by
  have hm : i ∈ dataLines := by revert i; decide
  rw [sampleByte, sampleLines_eq, sampledFrom_dataLines]
  simp only [getLsbD_foldl_bitAt]
  rw [show BitVec.getLsbD (0 : Byte) i = false from BitVec.getLsbD_zero, Bool.false_or, Bool.eq_iff_iff,
    List.any_eq_true]
  constructor
  · rintro ⟨p, hp, h⟩
    obtain ⟨j, -, rfl⟩ := List.mem_map.1 hp
    simp only [Bool.and_eq_true, decide_eq_true_eq] at h
    obtain ⟨rfl, h⟩ := h
    exact h
  · intro h
    have hc : lineConnected s.cfg i = true := by
      unfold bitRead at h; exact (Bool.and_eq_true _ _ ▸ h).1
    exact ⟨(i, bitRead s i), List.mem_map.2 ⟨i, List.mem_filter.2 ⟨hm, hc⟩, rfl⟩, by simp [h]⟩

/-- The state SampleByte leaves: only the trace, `upc` and the count of free bits move. -/
theorem sampleByte_state (s : State) :
    (sampleByte s).2 = { s with
      trace := s.trace ++ sampleEvents s.cfg (sampleByte s).1
      upc := s.upc + (connectedLines s.cfg).length
      draws := s.draws + drawsOfRead s } := by
  have he : sampleEvents s.cfg (sampleByte s).1 =
      (connectedLines s.cfg).map fun i => .sample i (bitRead s i) := by
    simp only [sampleEvents, sampleByte_bits]
  rw [he, sampleByte, sampleLines_eq, sampledFrom_dataLines]
  simp only [afterSamples, List.map_map, List.length_map, drawsOfRead]
  congr 1

/-! The sequences of 42_transactions. -/

theorem isLatch_rest (v : Variant) : isLatch v 0b010#3 = false := by cases v <;> rfl
theorem isLatch_readData (v : Variant) : isLatch v 0b011#3 = false := by cases v <;> rfl
theorem isLatch_writeData (v : Variant) : isLatch v 0b110#3 = false := by cases v <;> rfl

/-- A return to REST is nothing to the responder. -/
theorem edgeStep_rest_responder (src : ModeCode) (s : State) : (edgeStep src 0b010#3 s).responder = s.responder :=
  edgeStep_responder_quiet (isLatch_rest _) rfl

/-- Nor is the entry into READ_DATA. -/
theorem edgeStep_read_responder (src : ModeCode) (s : State) : (edgeStep src 0b011#3 s).responder = s.responder :=
  edgeStep_responder_quiet (isLatch_readData _) rfl

/-- The events of the latch path, whatever lines are connected. -/
def latchEvents (cfg : Config) : List Event :=
  match cfg.variant with
  | .a => edgeEvents cfg 0b010#3 0b000#3 ++ edgeEvents cfg 0b000#3 0b001#3 ++ edgeEvents cfg 0b001#3 0b000#3 ++
      edgeEvents cfg 0b000#3 0b010#3
  | .b => edgeEvents cfg 0b010#3 0b111#3 ++ edgeEvents cfg 0b111#3 0b010#3

/-- The path of LATCH_ADDR and back, as the responder sees it: one latch of the driven byte. -/
theorem latchPath_responder {s : State} {a : Byte} (hd : s.dbusDir = .output) (ho : s.dbusOut = some a) :
    (latchPath s).responder = s.responder.map (latched s.cfg a) := by
  cases hv : s.cfg.variant
  · simp only [latchPath, hv]
    rw [edgeStep_responder_quiet (by simp [hv]; decide) (by decide),
      edgeStep_responder_quiet (by simp [hv]; decide) (by decide), edgeStep_responder,
      observe_latch _ _ _ (by simp [hv]; decide), edgeStep_responder_quiet (by simp [hv]; decide) (by decide)]
    simp [drivenLines, latchLevel, hd, ho]
    rfl
  · simp only [latchPath, hv]
    rw [edgeStep_responder_quiet (by simp [hv]; decide) (by decide), edgeStep_responder,
      observe_latch _ _ _ (by simp [hv]; decide)]
    simp [drivenLines, latchLevel, hd, ho]
    rfl

/-- Everything LatchSeq(a) does (R182). -/
theorem latchSeq_eq (a : Byte) (s : State) :
    latchSeq a s = { s with
      mode := some rest
      dbusDir := .output
      dbusOut := some a
      trace := s.trace ++ busOutEvents a s.dbusDir ++ latchEvents s.cfg
      upc := s.upc + (busOutEvents a s.dbusDir).length + (latchEvents s.cfg).length
      responder := s.responder.map (latched s.cfg a) } := by
  have hr := latchPath_responder (s := busOut a s) (a := a) (by simp [busOut_eq]) (by simp [busOut_eq])
  rw [busOut_eq] at hr
  cases hv : s.cfg.variant <;> ext1 <;>
    simp_all [latchSeq, latchPath, busOut_eq, rest, latchEvents, edgeEvents, Nat.add_assoc]

/-- Everything PulseSeq() does where the bus drives `d` (R184). -/
theorem pulseSeq_eq {d : Byte} {s : State} (hd : s.dbusDir = .output) (ho : s.dbusOut = some d) :
    pulseSeq s = { s with
      mode := some rest
      trace := s.trace ++ edgeEvents s.cfg 0b010#3 0b110#3 ++ [.holdWrite] ++ edgeEvents s.cfg 0b110#3 0b010#3
      upc := s.upc + 5
      responder := s.responder.map (stored s.cfg d) } := by
  ext1 <;> try simp [pulseSeq, rest, edgeEvents]
  rw [edgeStep_rest_responder, emit_holdWrite_responder, edgeStep_responder,
    observe_write _ _ _ (isLatch_writeData _) rfl, drivenLines_output hd, latchLevel_some ho]
  rfl

/-- The state in which ReadSeq samples (R198). -/
def readingState (s : State) : State := edgeStep 0b010#3 0b011#3 (busIn s)

theorem readingState_eq (s : State) :
    readingState s = { s with
      mode := some readData
      dbusDir := .input
      trace := s.trace ++ busInEvents s.dbusDir ++ edgeEvents s.cfg 0b010#3 0b011#3
      upc := s.upc + (busInEvents s.dbusDir).length + 2 } := by
  ext1 <;> try simp [readingState, busIn_eq, readData]
  exact edgeStep_read_responder _ _

theorem readSeq_eq (s : State) :
    readSeq s = ((sampleByte (readingState s)).1, edgeStep 0b011#3 0b010#3 (sampleByte (readingState s)).2) := by
  simp only [readSeq, readingState]

/-- The bit a read gets depends only on the wiring, the mode, the responder and the free bits drawn so far. -/
theorem bitRead_congr {s t : State} (i : Fin 8) (hc : s.cfg = t.cfg) (hm : s.mode = t.mode)
    (hr : s.responder = t.responder) (hd : s.draws = t.draws) : bitRead s i = bitRead t i := by
  simp only [bitRead, hc, hm, hr, hd]

/-- The byte ReadSeq returns (R198): line by line what the bus answers in READ_DATA. -/
theorem readSeq_bits (s : State) (i : Fin 8) :
    (readSeq s).1.getLsbD i = bitRead { s with mode := some readData } i := by
  rw [readSeq_eq, sampleByte_bits]
  exact bitRead_congr i (by rw [readingState_eq]) (by rw [readingState_eq]) (by rw [readingState_eq])
    (by rw [readingState_eq])

/-- Everything else ReadSeq does (R198). -/
theorem readSeq_state (s : State) :
    (readSeq s).2 = { s with
      mode := some rest
      dbusDir := .input
      trace := s.trace ++ busInEvents s.dbusDir ++ edgeEvents s.cfg 0b010#3 0b011#3 ++
        sampleEvents s.cfg (readSeq s).1 ++ edgeEvents s.cfg 0b011#3 0b010#3
      upc := s.upc + (busInEvents s.dbusDir).length + 2 + (connectedLines s.cfg).length + 2
      draws := s.draws + drawsOfRead s } := by
  rw [readSeq_eq]
  generalize hv : (sampleByte (readingState s)).1 = v
  simp only [sampleByte_state, hv]
  rw [readingState_eq]
  ext1 <;> first | exact edgeStep_rest_responder _ _ | simp [rest, drawsOfRead]

/-- Everything WRITE's sequence does (R195). -/
theorem writeSeq_eq (r : Nibble) (d : Byte) (s : State) :
    writeSeq r d s = { s with
      mode := some rest
      dbusDir := .input
      dbusOut := some d
      ieSaved := some s.hostIe
      crit := false
      trace := s.trace ++ busOutEvents (composite s.ca r) s.dbusDir ++ latchEvents s.cfg ++ [.drive d] ++
        [.crit .enter s.hostIe] ++ edgeEvents s.cfg 0b010#3 0b110#3 ++ [.holdWrite] ++ edgeEvents s.cfg 0b110#3 0b010#3 ++
        [.crit .exit s.hostIe] ++ [.dir .input]
      upc := s.upc + (busOutEvents (composite s.ca r) s.dbusDir).length + (latchEvents s.cfg).length + 9
      responder := s.responder.map fun rr => stored s.cfg d (latched s.cfg (composite s.ca r) rr) } := by
  unfold writeSeq
  rw [latchSeq_eq, busOut_eq, pulseSeq_eq (d := d) (by simp) (by simp), busIn_eq]
  ext1 <;> simp [busOutEvents, busInEvents, savedIe, Function.comp_def, Nat.add_assoc]

/-- The responder once a WTR has latched and pulsed (R201). -/
def wtrResponder (r : Nibble) (d : Byte) (s : State) : Option Responder :=
  s.responder.map fun rr => stored s.cfg d (latched s.cfg (composite s.ca r) rr)

/-- The state in which WtrBody reads (R228). -/
def wtrReading (r : Nibble) (d : Byte) (s : State) : State :=
  pulseSeq (busOut d (latchSeq (composite s.ca r) (critEnter s)))

theorem wtrReading_eq (r : Nibble) (d : Byte) (s : State) :
    wtrReading r d s = { s with
      mode := some rest
      dbusDir := .output
      dbusOut := some d
      hostIe := false
      ieSaved := some s.hostIe
      crit := true
      trace := s.trace ++ [.crit .enter s.hostIe] ++ busOutEvents (composite s.ca r) s.dbusDir ++
        latchEvents s.cfg ++ [.drive d] ++ edgeEvents s.cfg 0b010#3 0b110#3 ++ [.holdWrite] ++
        edgeEvents s.cfg 0b110#3 0b010#3
      upc := s.upc + (busOutEvents (composite s.ca r) s.dbusDir).length + (latchEvents s.cfg).length + 7
      responder := wtrResponder r d s } := by
  unfold wtrReading
  rw [latchSeq_eq, busOut_eq, pulseSeq_eq (d := d) (by simp) (by simp)]
  ext1 <;> simp [busOutEvents, wtrResponder, Function.comp_def]
  omega

theorem wtrBody_eq (r : Nibble) (d : Byte) (s : State) :
    wtrBody r d s = ((readSeq (wtrReading r d s)).1, critExit (readSeq (wtrReading r d s)).2) := by
  simp only [wtrBody, wtrReading]

/-- The byte WtrBody returns (R228): line by line what the bus answers after the write. -/
theorem wtrBody_bits (r : Nibble) (d : Byte) (s : State) (i : Fin 8) :
    (wtrBody r d s).1.getLsbD i =
      bitRead { s with mode := some readData, responder := wtrResponder r d s } i := by
  rw [wtrBody_eq, readSeq_bits]
  exact bitRead_congr i (by rw [wtrReading_eq]) (by rw [wtrReading_eq]) (by rw [wtrReading_eq])
    (by rw [wtrReading_eq])

/-- Everything else WtrBody does (R228). -/
theorem wtrBody_state (r : Nibble) (d : Byte) (s : State) :
    (wtrBody r d s).2 = { s with
      mode := some rest
      dbusDir := .input
      dbusOut := some d
      ieSaved := some s.hostIe
      crit := false
      trace := s.trace ++ [.crit .enter s.hostIe] ++ busOutEvents (composite s.ca r) s.dbusDir ++
        latchEvents s.cfg ++ [.drive d] ++ edgeEvents s.cfg 0b010#3 0b110#3 ++ [.holdWrite] ++
        edgeEvents s.cfg 0b110#3 0b010#3 ++ [.dir .input] ++ edgeEvents s.cfg 0b010#3 0b011#3 ++
        sampleEvents s.cfg (wtrBody r d s).1 ++ edgeEvents s.cfg 0b011#3 0b010#3 ++ [.crit .exit s.hostIe]
      upc := s.upc + (busOutEvents (composite s.ca r) s.dbusDir).length + (latchEvents s.cfg).length +
        (connectedLines s.cfg).length + 13
      responder := wtrResponder r d s
      draws := s.draws + drawsOfRead s } := by
  rw [wtrBody_eq]
  generalize hv : (readSeq (wtrReading r d s)).1 = v
  simp only [readSeq_state, hv]
  rw [wtrReading_eq]
  ext1 <;> simp [savedIe, busInEvents, drawsOfRead, wtrResponder]
  · omega
  · cases s.responder <;> rfl

end Sys2Proof.Machine
end

