-- ==== Sys2Proof/Laws/Command.lean ====
section
/-! SUPPORT. What a command can do, said once (60_exceptions R258): every command is one `command` of its refusal, its
preconditions and its effect, and what follows from that for all of them. -/

namespace Sys2Proof.Machine

/-- Whatever a command answers: from a running block, one of the three ways R258 gives. -/
theorem command_next {ref : State → Option RefusalCode} {flt : State → Option FaultCode} {eff : State → State}
    {s t : State} (h : command ref flt eff s = .next t) :
    s.stop = .run ∧ ((∃ c, ref s = some c ∧ t = refuse c s) ∨
      (ref s = none ∧ ∃ c, flt s = some c ∧ t = raiseFault c s) ∨
      (ref s = none ∧ flt s = none ∧ t = eff s)) := by
  unfold command at h
  split at h
  · refine ⟨‹_›, ?_⟩
    split at h
    · injection h with h; exact .inl ⟨_, ‹_›, h.symm⟩
    · split at h
      · injection h with h; exact .inr (.inl ⟨‹_›, _, ‹_›, h.symm⟩)
      · injection h with h; exact .inr (.inr ⟨‹_›, ‹_›, h.symm⟩)
  · cases h
  · cases h

theorem command_refused {ref : State → Option RefusalCode} {flt : State → Option FaultCode} {eff : State → State}
    {s : State} {c : RefusalCode} (hs : s.stop = .run) (h : ref s = some c) :
    command ref flt eff s = .next (refuse c s) := by simp [command, hs, h]

theorem command_faults {ref : State → Option RefusalCode} {flt : State → Option FaultCode} {eff : State → State}
    {s : State} {c : FaultCode} (hs : s.stop = .run) (hr : ref s = none) (h : flt s = some c) :
    command ref flt eff s = .next (raiseFault c s) := by simp [command, hs, hr, h]

theorem command_completes {ref : State → Option RefusalCode} {flt : State → Option FaultCode} {eff : State → State}
    {s : State} (hs : s.stop = .run) (hr : ref s = none) (h : flt s = none) :
    command ref flt eff s = .next (eff s) := by simp [command, hs, hr, h]

theorem command_stopped {ref : State → Option RefusalCode} {flt : State → Option FaultCode} {eff : State → State}
    {s : State} (hs : s.stop ≠ .run) : command ref flt eff s = .fault (.stopped s.stop) := by
  unfold command; split <;> simp_all

/-- The decoder's verdict on a command, given the configuration of the state. -/
def refusalOf : Instr → State → Option RefusalCode
  | .m010to000 => xferRefusal 0b010#3 0b000#3
  | .m000to001 => xferRefusal 0b000#3 0b001#3
  | .m001to000 => xferRefusal 0b001#3 0b000#3
  | .m000to010 => xferRefusal 0b000#3 0b010#3
  | .m010to110 => xferRefusal 0b010#3 0b110#3
  | .m110to010 => xferRefusal 0b110#3 0b010#3
  | .m010to011 => xferRefusal 0b010#3 0b011#3
  | .m011to010 => xferRefusal 0b011#3 0b010#3
  | .m010to111 => xferRefusal 0b010#3 0b111#3
  | .m111to010 => xferRefusal 0b111#3 0b010#3
  | .setmode m => setmodeRefusal m
  | _ => neverRefused

/-- The preconditions of a command. -/
def faultOf : Instr → State → Option FaultCode
  | .begin => neverFaults
  | .latch _ => txCheck
  | .write _ _ => txCheck
  | .read _ => txCheck
  | .wtr _ _ => txCheck
  | .setca _ => neverFaults
  | .getca => neverFaults
  | .findca => txCheck
  | .m010to000 => afterBegun (xferFault 0b010#3 0b000#3)
  | .m000to001 => afterBegun (xferFault 0b000#3 0b001#3)
  | .m001to000 => afterBegun (xferFault 0b001#3 0b000#3)
  | .m000to010 => afterBegun (xferFault 0b000#3 0b010#3)
  | .m010to110 => afterBegun (xferFault 0b010#3 0b110#3)
  | .m110to010 => afterBegun (xferFault 0b110#3 0b010#3)
  | .m010to011 => afterBegun (xferFault 0b010#3 0b011#3)
  | .m011to010 => afterBegun (xferFault 0b011#3 0b010#3)
  | .m010to111 => afterBegun (xferFault 0b010#3 0b111#3)
  | .m111to010 => afterBegun (xferFault 0b111#3 0b010#3)
  | .setmode m => afterBegun (setmodeFault m)
  | .busout _ => afterBegun busoutFault
  | .busin => afterBegun businFault
  | .bussample => afterBegun bussampleFault

/-- The effect of a command whose checks pass. -/
def effectOf : Instr → State → State
  | .begin => fun s => respond .none (initialise s)
  | .latch r => fun s => respond .none (latchSeq (composite s.ca r) s)
  | .write r d => fun s => respond .none (writeSeq r d s)
  | .read r => respondRead r
  | .wtr r d => respondWtr r d
  | .setca x => fun s => respond .none (setChipAddress x s)
  | .getca => fun s => respond (.byte (chipAddressByte s.ca)) s
  | .findca => discover
  | .m010to000 => fun s => respond .none (edgeStep 0b010#3 0b000#3 s)
  | .m000to001 => fun s => respond .none (edgeStep 0b000#3 0b001#3 s)
  | .m001to000 => fun s => respond .none (edgeStep 0b001#3 0b000#3 s)
  | .m000to010 => fun s => respond .none (edgeStep 0b000#3 0b010#3 s)
  | .m010to110 => fun s => respond .none (edgeStep 0b010#3 0b110#3 s)
  | .m110to010 => fun s => respond .none (edgeStep 0b110#3 0b010#3 s)
  | .m010to011 => fun s => respond .none (edgeStep 0b010#3 0b011#3 s)
  | .m011to010 => fun s => respond .none (edgeStep 0b011#3 0b010#3 s)
  | .m010to111 => fun s => respond .none (edgeStep 0b010#3 0b111#3 s)
  | .m111to010 => fun s => respond .none (edgeStep 0b111#3 0b010#3 s)
  | .setmode m => fun s => respond .none (coarseChange m s)
  | .busout d => fun s => respond .none (busOut d s)
  | .busin => fun s => respond .none (busIn s)
  | .bussample => respondSampled

/-- Every command is one `command` of its refusal, its preconditions and its effect. -/
theorem exec_eq (i : Instr) (s : State) : exec i s = command (refusalOf i) (faultOf i) (effectOf i) s := by
  cases i <;> rfl

/-- Whatever `exec` answers: one of three ways. -/
theorem exec_next {i : Instr} {s t : State} (h : exec i s = .next t) :
    s.stop = .run ∧ ((∃ c, refusalOf i s = some c ∧ t = refuse c s) ∨
      (refusalOf i s = none ∧ ∃ c, faultOf i s = some c ∧ t = raiseFault c s) ∨
      (refusalOf i s = none ∧ faultOf i s = none ∧ t = effectOf i s)) :=
  command_next (exec_eq i s ▸ h)

/-- Where a command's checks pass it takes its effect. -/
theorem exec_completes {i : Instr} {s : State} (hs : s.stop = .run) (hr : refusalOf i s = none)
    (hf : faultOf i s = none) : exec i s = .next (effectOf i s) :=
  exec_eq i s ▸ command_completes hs hr hf

/-- TxCheck passes exactly at REST in a begun block. -/
theorem txCheck_atRest {s : State} (h : s.atRest) : txCheck s = none := by
  simp [txCheck, afterBegun, restingFault, h.1.2, h.2]

theorem txCheck_none {s : State} (h : txCheck s = none) : s.init = true ∧ s.mode = some rest := by
  unfold txCheck afterBegun restingFault at h
  split at h
  · cases h
  · split at h
    · cases h
    · simp_all

/-- A register transaction or a discovery that starts at REST takes its effect. -/
theorem exec_transaction {i : Instr} {s : State} (h : s.atRest) (hr : refusalOf i s = none)
    (hf : faultOf i = txCheck) : exec i s = .next (effectOf i s) :=
  exec_completes h.1.1 hr (hf ▸ txCheck_atRest h)

/-! Addresses. -/

theorem composite_eq (ca r : Nibble) : composite ca r = ca ++ r := by revert ca r; decide

theorem chipAddressByte_eq (ca : Nibble) : chipAddressByte ca = ca ++ 0#4 := by revert ca; decide

/-! In a valid configuration every line an edge writes has a pin. -/

theorem configValid_a {cfg : Config} (h : configValid cfg = true) (hv : cfg.variant = .a) :
    cfg.bdirConn = true ∧ cfg.bc2Conn = true ∧ cfg.bc1Conn = true := by
  simp_all [configValid, linesConnected, coarseWhereNeeded]

theorem configValid_b {cfg : Config} (h : configValid cfg = true) (hv : cfg.variant = .b) :
    cfg.bdirConn = true ∧ cfg.bc1Conn = true ∧ cfg.coarseEdgesOk = true := by
  simp_all [configValid, linesConnected, coarseWhereNeeded]

theorem lines_010_000 : lines 0b010#3 0b000#3 = [(.bc2, false)] := by decide
theorem lines_000_001 : lines 0b000#3 0b001#3 = [(.bc1, true)] := by decide
theorem lines_001_000 : lines 0b001#3 0b000#3 = [(.bc1, false)] := by decide
theorem lines_000_010 : lines 0b000#3 0b010#3 = [(.bc2, true)] := by decide
theorem lines_010_110 : lines 0b010#3 0b110#3 = [(.bdir, true)] := by decide
theorem lines_110_010 : lines 0b110#3 0b010#3 = [(.bdir, false)] := by decide
theorem lines_010_011 : lines 0b010#3 0b011#3 = [(.bc1, true)] := by decide
theorem lines_011_010 : lines 0b011#3 0b010#3 = [(.bc1, false)] := by decide
theorem lines_010_111 : lines 0b010#3 0b111#3 = [(.bdir, true), (.bc1, true)] := by decide
theorem lines_111_010 : lines 0b111#3 0b010#3 = [(.bdir, false), (.bc1, false)] := by decide

/-- BDIR and BC1 have pins in every valid configuration. -/
theorem configValid_bdir_bc1 {cfg : Config} (h : configValid cfg = true) :
    cfg.bdirConn = true ∧ cfg.bc1Conn = true := by
  cases hv : cfg.variant
  · exact ⟨(configValid_a h hv).1, (configValid_a h hv).2.2⟩
  · exact ⟨(configValid_b h hv).1, (configValid_b h hv).2.1⟩

theorem latchEvents_valid {cfg : Config} (h : configValid cfg = true) :
    latchEvents cfg = latchPathEvents cfg.variant := by
  cases hv : cfg.variant
  · obtain ⟨h₁, h₂, h₃⟩ := configValid_a h hv
    simp [latchEvents, hv, edgeEvents, lines_010_000, lines_000_001, lines_001_000, lines_000_010, connectedOnly,
      ctlConn, h₂, h₃, latchPathEvents, latchPathA]
  · obtain ⟨h₁, h₂, h₃⟩ := configValid_b h hv
    simp [latchEvents, hv, edgeEvents, lines_010_111, lines_111_010, connectedOnly, ctlConn, h₁, h₂,
      latchPathEvents, latchPathB]

theorem edgeEvents_write {cfg : Config} (h : configValid cfg = true) :
    edgeEvents cfg 0b010#3 0b110#3 = [.ctl [(.bdir, true)], .mode (some 0b010#3) 0b110#3] := by
  simp [edgeEvents, lines_010_110, connectedOnly, ctlConn, (configValid_bdir_bc1 h).1]

theorem edgeEvents_writeEnd {cfg : Config} (h : configValid cfg = true) :
    edgeEvents cfg 0b110#3 0b010#3 = [.ctl [(.bdir, false)], .mode (some 0b110#3) 0b010#3] := by
  simp [edgeEvents, lines_110_010, connectedOnly, ctlConn, (configValid_bdir_bc1 h).1]

theorem edgeEvents_read {cfg : Config} (h : configValid cfg = true) :
    edgeEvents cfg 0b010#3 0b011#3 = readEntryEvents := by
  simp [edgeEvents, lines_010_011, connectedOnly, ctlConn, (configValid_bdir_bc1 h).2, readEntryEvents]

theorem edgeEvents_readEnd {cfg : Config} (h : configValid cfg = true) :
    edgeEvents cfg 0b011#3 0b010#3 = readExitEvents := by
  simp [edgeEvents, lines_011_010, connectedOnly, ctlConn, (configValid_bdir_bc1 h).2, readExitEvents]

/-! Preconditions. -/

theorem afterBegun_none {f : State → Option FaultCode} {s : State} (h : afterBegun f s = none) :
    s.init = true ∧ f s = none := by
  unfold afterBegun at h; split at h <;> simp_all

/-- PhaseCheck passes where the bus has the direction the mode needs (R132). -/
theorem phaseCheck_passes {s : State} {dst : ModeCode} (hr : dst = 0b011#3 → s.dbusDir = .input)
    (hw : dst = 0b110#3 ∨ dst = latchAddr s.cfg.variant → s.dbusDir = .output) : phaseCheck dst s = none := by
  unfold phaseCheck
  rw [if_neg, if_neg]
  · rintro ⟨h, hd⟩
    have := hw (by simpa [isLatch, isWrite, writeData, or_comm] using h)
    simp_all
  · rintro ⟨h, hd⟩
    have := hr (by simpa [isRead, readData] using h)
    simp_all

/-- What PhaseCheck has checked where it passes (R132). -/
theorem phaseCheck_none {s : State} {dst : ModeCode} (h : phaseCheck dst s = none) :
    (isRead dst = true → s.dbusDir = .input) ∧
      ((isLatch s.cfg.variant dst = true ∨ isWrite dst = true) → s.dbusDir = .output) := by
  unfold phaseCheck at h
  cases hd : s.dbusDir <;> simp_all

/-- Every edge leads to one of the variant's codes (R95, R96). -/
theorem hasEdge_named {v : Variant} {src dst : ModeCode} (h : hasEdge v src dst = true) : named v dst = true := by
  cases v <;> revert src dst <;> decide

end Sys2Proof.Machine
end

