-- ==== Sys2Proof/Laws/Discovery.lean ====
section
/-! SUPPORT. What FINDCA's scan does: its frame, and its two ends. -/

namespace Sys2Proof.Machine

/-- Everything one candidate does: one WtrBody under the candidate's address (R226, R228). -/
theorem probe_state (s : State) :
    ∃ es rr dr u, (probe s).2 = { s with
      mode := some rest, dbusDir := .input, dbusOut := some s.cfg.scanSentinel, ieSaved := some s.hostIe
      crit := false, ca := candidateNibble s.cand, trace := s.trace ++ es, responder := rr, draws := dr, upc := u } := by
  have h := wtrBody_state s.cfg.scanReg s.cfg.scanSentinel { s with ca := candidateNibble s.cand }
  simp only [List.append_assoc] at h
  exact ⟨_, _, _, _, h⟩

theorem scan_succ {n : Nat} {s : State} (h : s.cand < 16) :
    scan (n + 1) s =
      if (probe s).1 = s.cfg.scanSentinel then
        (.found (chipAddressByte (candidateNibble s.cand)), (probe s).2)
      else scan n { (probe s).2 with cand := (probe s).2.cand + 1 } := by
  simp only [scan, h, if_true]

/-- The frame of a scan of at least one candidate, and what it can answer. -/
theorem scan_frame (n : Nat) (s : State) (h : s.cand < 16) :
    (∃ es rr dr u c k, (scan (n + 1) s).2 = { s with
      mode := some rest, dbusDir := .input, dbusOut := some s.cfg.scanSentinel, ieSaved := some s.hostIe
      crit := false, ca := c, cand := k, trace := s.trace ++ es, responder := rr, draws := dr, upc := u }) ∧
    ((scan (n + 1) s).1 = .notFound ∨ ∃ c : Nibble, (scan (n + 1) s).1 = .found (c ++ 0#4)) := by
  induction n generalizing s with
  | zero =>
    rw [scan_succ h]
    obtain ⟨es, rr, dr, u, hp⟩ := probe_state s
    split
    · exact ⟨⟨es, rr, dr, u, _, s.cand, hp⟩, .inr ⟨_, by rw [chipAddressByte_eq]⟩⟩
    · exact ⟨⟨es, rr, dr, u, candidateNibble s.cand, s.cand + 1, by simp only [scan, hp]⟩, .inl rfl⟩
  | succ n ih =>
    rw [scan_succ h]
    obtain ⟨es, rr, dr, u, hp⟩ := probe_state s
    split
    · exact ⟨⟨es, rr, dr, u, _, s.cand, hp⟩, .inr ⟨_, by rw [chipAddressByte_eq]⟩⟩
    · rw [hp]
      by_cases hk : s.cand + 1 < 16
      · obtain ⟨⟨es', rr', dr', u', c', k', h'⟩, hr⟩ := ih { s with
          mode := some rest, dbusDir := .input, dbusOut := some s.cfg.scanSentinel, ieSaved := some s.hostIe
          crit := false, ca := candidateNibble s.cand, cand := s.cand + 1, trace := s.trace ++ es
          responder := rr, draws := dr, upc := u } hk
        exact ⟨⟨es ++ es', rr', dr', u', c', k', by rw [h', List.append_assoc]⟩, hr⟩
      · refine ⟨⟨es, rr, dr, u, candidateNibble s.cand, s.cand + 1, ?_⟩, .inl ?_⟩ <;> simp only [scan, hk, if_false]

/-- FINDCA's effect: the chip address of before, `cand` and `upc` at 0, and the frame of the scan. -/
theorem discover_frame (s : State) :
    (∃ es rr dr r, discover s = { s with
      mode := some rest, dbusDir := .input, dbusOut := some s.cfg.scanSentinel, ieSaved := some s.hostIe
      crit := false, cand := 0, upc := 0, trace := s.trace ++ es, responder := rr, draws := dr, resp := r } ∧
      (r = .notFound ∨ ∃ c : Nibble, r = .found (c ++ 0#4))) := by
  obtain ⟨⟨es, rr, dr, u, c, k, h⟩, hr⟩ := scan_frame 15 { s with cand := 0 } (by decide : (0 : BitVec 5) < 16)
  refine ⟨es, rr, dr, (scan 16 { s with cand := 0 }).1, ?_, hr⟩
  simp only [discover, h, respond]

/-- FINDCA's effect in terms of its scan. -/
theorem discover_eq {s : State} {p : Response × State} (h : scan 16 { s with cand := 0 } = p) :
    discover s = respond p.1 { p.2 with ca := s.ca, cand := 0 } := by subst h; rfl

/-- What one candidate leaves in the responder (R229). -/
theorem probe_responder {s : State} {rr : Responder} (h : s.responder = some rr) :
    (probe s).2.responder =
      some (stored s.cfg s.cfg.scanSentinel (latched s.cfg (candidateNibble s.cand ++ s.cfg.scanReg) rr)) := by
  unfold probe; rw [wtrBody_state]; simp [wtrResponder, h, composite_eq]

end Sys2Proof.Machine
end

