-- ==== Sys2Proof/Laws/Effects.lean ====
section
/-! SUPPORT. The effects of BEGIN and SETMODE as record updates, and the fields no effect changes. -/

namespace Sys2Proof.Machine

/-- The MODE event of BEGIN, if any (R241). -/
def returnEvents (m : Option ModeCode) : List Event :=
  if m = some rest then [] else [.mode m rest]

/-- The RESET_PULSE event of BEGIN, if any (R240). -/
def resetEvents (cfg : Config) : List Event := if cfg.resetConn = true then [.resetPulse] else []

/-- The responder after BEGIN (R81). -/
def resetResponder (cfg : Config) (rr : Option Responder) : Option Responder :=
  if cfg.resetConn = true then rr.map Responder.clear else rr

theorem emitReturnToRest_eq (s : State) :
    emitReturnToRest s = { s with
      trace := s.trace ++ returnEvents s.mode, upc := s.upc + (returnEvents s.mode).length } := by
  unfold emitReturnToRest returnEvents
  split
  · simp
  · ext1 <;> simp
    rw [emit_responder, observe_quiet (m := rest) _ _ _ (isLatch_rest _) rfl]
    simp

theorem resetPulse_eq (s : State) :
    resetPulse s = { s with
      trace := s.trace ++ resetEvents s.cfg, upc := s.upc + (resetEvents s.cfg).length
      responder := resetResponder s.cfg s.responder } := by
  unfold resetPulse resetEvents resetResponder
  split
  · ext1 <;> simp
  · simp

/-- Everything BEGIN does (R241). -/
theorem initialise_eq (s : State) :
    initialise s = { s with
      init := true
      mode := some rest
      dbusDir := .input
      trace := s.trace ++ [.initCtl (restLevels s.cfg)] ++ returnEvents s.mode ++ [.dir .input] ++ resetEvents s.cfg
      upc := s.upc + 1 + (returnEvents s.mode).length + 1 + (resetEvents s.cfg).length
      responder := resetResponder s.cfg s.responder } := by
  unfold initialise
  rw [emitReturnToRest_eq, resetPulse_eq]
  ext1 <;> simp

/-- Everything SETMODE does from another mode (R145). -/
theorem coarseChange_eq {m : ModeCode} {s : State} (h : s.mode ≠ some m) :
    coarseChange m s = { s with
      mode := some m
      trace := s.trace ++ [.ctl (connectedOnly s.cfg (linesFrom s.mode m)), .mode s.mode m]
      upc := s.upc + 2
      responder := s.responder.map
        (Responder.observe s.cfg.variant (drivenLines s) (latchLevel s) (.mode s.mode m)) } := by
  unfold coarseChange
  rw [if_neg h]
  ext1 <;> simp [emit_responder, drivenLines, latchLevel]

theorem coarseChange_same {m : ModeCode} {s : State} (h : s.mode = some m) : coarseChange m s = s := by
  simp [coarseChange, h]

/-- What no effect changes: the configuration, `stop`, the port and the host's interruptibility. -/
theorem effect_keeps (i : Instr) (s : State) :
    (effectOf i s).cfg = s.cfg ∧ (effectOf i s).stop = s.stop ∧ (effectOf i s).port = s.port ∧
      (effectOf i s).hostIe = s.hostIe ∧ (effectOf i s).upc = 0 ∧ ∃ es, (effectOf i s).trace = s.trace ++ es := by
  cases i <;> simp only [effectOf]
  case begin => rw [initialise_eq]; simp [List.append_assoc]
  case latch => rw [latchSeq_eq]; simp [List.append_assoc]
  case write => rw [writeSeq_eq]; simp [List.append_assoc]
  case read => simp [respondRead, readSeq_state, latchSeq_eq, List.append_assoc]
  case wtr => simp [respondWtr, wtrBody_state, List.append_assoc]
  case findca => obtain ⟨es, _, _, _, h, _⟩ := discover_frame s; rw [h]; simp
  case setmode m =>
    by_cases h : s.mode = some m
    · rw [coarseChange_same h]; simp
    · rw [coarseChange_eq h]; simp
  case busout => rw [busOut_eq]; simp
  case busin => rw [busIn_eq]; simp
  case bussample => simp [respondSampled, sampleByte_state]
  all_goals simp

theorem effect_cfg (i : Instr) (s : State) : (effectOf i s).cfg = s.cfg := (effect_keeps i s).1
theorem effect_stop (i : Instr) (s : State) : (effectOf i s).stop = s.stop := (effect_keeps i s).2.1
theorem effect_hostIe (i : Instr) (s : State) : (effectOf i s).hostIe = s.hostIe := (effect_keeps i s).2.2.2.1

/-- A command the configuration has is not refused. -/
theorem refusalOf_wellFormed {i : Instr} {s : State} (h : i.wellFormed s.cfg = true) : refusalOf i s = none := by
  cases hv : s.cfg.variant <;> cases i <;>
    simp_all [refusalOf, neverRefused, Instr.wellFormed, xferRefusal, setmodeRefusal] <;> decide

/-- Everything an edge does (R130). -/
theorem edgeStep_respond (src dst : ModeCode) (s : State) :
    respond .none (edgeStep src dst s) = { s with
      mode := some dst
      resp := .none
      upc := 0
      trace := s.trace ++ edgeEvents s.cfg src dst
      responder := s.responder.map
        (Responder.observe s.cfg.variant (drivenLines s) (latchLevel s) (.mode (some src) dst)) } := by
  ext1 <;> simp [edgeStep_responder]

/-- A command's own events are what it appended. -/
theorem newEvents_append {s t : State} {es : List Event} (h : t.trace = s.trace ++ es) : newEvents s t = es := by
  simp [newEvents, h]

theorem newEvents_same {s t : State} (h : t.trace = s.trace) : newEvents s t = [] := by simp [newEvents, h]

end Sys2Proof.Machine
end

