-- ==== Sys2Proof/Laws/Encoding.lean ====
section
/-! SUPPORT. The fields of a packed word, and a word as its fields where its must-be-zero bits are zero. -/

namespace Sys2Proof

@[simp] theorem opField_packByte (op r : Nibble) (d : Byte) : opField (packByte op r d) = op.toNat := by
  unfold opField packByte
  congr 1
  apply BitVec.eq_of_getLsbD_eq
  intro i hi
  simp only [BitVec.getLsbD_extractLsb', BitVec.getLsbD_append]
  interval_cases i <;> simp

@[simp] theorem regField_packByte (op r : Nibble) (d : Byte) : regField (packByte op r d) = r := by
  unfold regField packByte
  apply BitVec.eq_of_getLsbD_eq
  intro i hi
  simp only [BitVec.getLsbD_extractLsb', BitVec.getLsbD_append]
  interval_cases i <;> simp

@[simp] theorem dataField_packByte (op r : Nibble) (d : Byte) : dataField (packByte op r d) = d := by
  unfold dataField packByte
  apply BitVec.eq_of_getLsbD_eq
  intro i hi
  simp only [BitVec.getLsbD_extractLsb', BitVec.getLsbD_append]
  interval_cases i <;> simp

@[simp] theorem fromField_packEdge (src dst : ModeCode) : fromField (packEdge src dst) = src := by
  revert src dst; decide

@[simp] theorem toField_packEdge (src dst : ModeCode) : toField (packEdge src dst) = dst := by
  revert src dst; decide

@[simp] theorem opField_packEdge (src dst : ModeCode) : opField (packEdge src dst) = 8 := by
  revert src dst; decide

@[simp] theorem toField_packMode (m : ModeCode) : toField (packMode m) = m := by revert m; decide

@[simp] theorem opField_packMode (m : ModeCode) : opField (packMode m) = 9 := by revert m; decide

/-- Every word is its op, its bits 11:8 and its bits 7:0. -/
theorem eq_packByte (w : Word) : w = packByte (w.extractLsb' 12 4) (regField w) (dataField w) := by
  unfold packByte regField dataField
  apply BitVec.eq_of_getLsbD_eq
  intro i hi
  simp only [BitVec.getLsbD_extractLsb', BitVec.getLsbD_append]
  interval_cases i <;> simp

theorem dataField_of_mbzR {w : Word} (h : w &&& mbzR = 0) : dataField w = 0 := by
  apply BitVec.eq_of_getLsbD_eq
  intro i hi
  have h := congrArg (·.getLsbD i) h
  simp only [dataField, BitVec.getLsbD_extractLsb', BitVec.getLsbD_and, mbzR] at h ⊢
  interval_cases i <;> simpa using h

theorem regField_of_mbzD {w : Word} (h : w &&& mbzD = 0) : regField w = 0 := by
  apply BitVec.eq_of_getLsbD_eq
  intro i hi
  have h := congrArg (·.getLsbD (8 + i)) h
  simp only [regField, BitVec.getLsbD_extractLsb', BitVec.getLsbD_and, mbzD] at h ⊢
  interval_cases i <;> simpa using h

theorem fields_of_mbzN {w : Word} (h : w &&& mbzN = 0) : regField w = 0 ∧ dataField w = 0 := by
  constructor
  · apply BitVec.eq_of_getLsbD_eq
    intro i hi
    have h := congrArg (·.getLsbD (8 + i)) h
    simp only [regField, BitVec.getLsbD_extractLsb', BitVec.getLsbD_and, mbzN] at h ⊢
    interval_cases i <;> simpa using h
  · apply BitVec.eq_of_getLsbD_eq
    intro i hi
    have h := congrArg (·.getLsbD i) h
    simp only [dataField, BitVec.getLsbD_extractLsb', BitVec.getLsbD_and, mbzN] at h ⊢
    interval_cases i <;> simpa using h

theorem eq_packEdge {w : Word} (h : w &&& mbzT = 0) (ho : w.extractLsb' 12 4 = 8#4) :
    w = packEdge (fromField w) (toField w) := by
  unfold packEdge fromField toField
  rw [← ho]
  apply BitVec.eq_of_getLsbD_eq
  intro i hi
  have h := congrArg (·.getLsbD i) h
  simp only [BitVec.getLsbD_extractLsb', BitVec.getLsbD_append, BitVec.getLsbD_and, mbzT] at h ⊢
  interval_cases i <;> first | (simp; done) | simpa using h

theorem eq_packMode {w : Word} (h : w &&& mbzM = 0) (ho : w.extractLsb' 12 4 = 9#4) :
    w = packMode (toField w) := by
  unfold packMode toField
  rw [← ho]
  apply BitVec.eq_of_getLsbD_eq
  intro i hi
  have h := congrArg (·.getLsbD i) h
  simp only [BitVec.getLsbD_extractLsb', BitVec.getLsbD_append, BitVec.getLsbD_and, mbzM] at h ⊢
  interval_cases i <;> first | (simp; done) | simpa using h

end Sys2Proof
end

