-- ==== Sys2Proof/Laws/PerInstr.lean ====
section
/-! SUPPORT. One statement about every command as a word: its op is in the opcode map and its must-be-zero bits are
zero (30_encoding R101, R103, R113). -/

namespace Sys2Proof.Laws.Shape

/-- The word of `i` has op at most 0xC and zero must-be-zero bits. -/
def Statement (i : Instr) : Prop := opField (encode i) ≤ 12 ∧ encode i &&& mbzMask (opField (encode i)) = 0

theorem begin : Statement .begin := by unfold Statement; decide
theorem latch (r : Nibble) : Statement (.latch r) := by revert r; unfold Statement; decide
theorem write (r : Nibble) (d : Byte) : Statement (.write r d) := by simp [Statement, encode, mbzMask, mbzRD]
theorem read (r : Nibble) : Statement (.read r) := by revert r; unfold Statement; decide
theorem wtr (r : Nibble) (d : Byte) : Statement (.wtr r d) := by simp [Statement, encode, mbzMask, mbzRD]
theorem setca (d : Byte) : Statement (.setca d) := by revert d; unfold Statement; decide
theorem getca : Statement .getca := by unfold Statement; decide
theorem findca : Statement .findca := by unfold Statement; decide
theorem m010to000 : Statement .m010to000 := by unfold Statement; decide
theorem m000to001 : Statement .m000to001 := by unfold Statement; decide
theorem m001to000 : Statement .m001to000 := by unfold Statement; decide
theorem m000to010 : Statement .m000to010 := by unfold Statement; decide
theorem m010to110 : Statement .m010to110 := by unfold Statement; decide
theorem m110to010 : Statement .m110to010 := by unfold Statement; decide
theorem m010to011 : Statement .m010to011 := by unfold Statement; decide
theorem m011to010 : Statement .m011to010 := by unfold Statement; decide
theorem m010to111 : Statement .m010to111 := by unfold Statement; decide
theorem m111to010 : Statement .m111to010 := by unfold Statement; decide
theorem setmode (m : ModeCode) : Statement (.setmode m) := by revert m; unfold Statement; decide
theorem busout (d : Byte) : Statement (.busout d) := by revert d; unfold Statement; decide
theorem busin : Statement .busin := by unfold Statement; decide
theorem bussample : Statement .bussample := by unfold Statement; decide

end Sys2Proof.Laws.Shape
end

