-- ==== Sys2Proof/Laws/Responder.lean ====
section
/-! SUPPORT. What the reference responder keeps under any single reaction it keeps under every command: the one
induction over effects that claims about the responder need. -/

namespace Sys2Proof.Machine

/-- The responder, if one is attached, satisfies `P`. -/
def ResponderHas (P : Responder → Prop) (s : State) : Prop := ∀ rr, s.responder = some rr → P rr

/-- `P` survives every reaction to an event. -/
def KeptByReactions (P : Responder → Prop) : Prop :=
  ∀ v driven level e rr, P rr → P (Responder.observe v driven level e rr)

variable {P : Responder → Prop}

theorem emit_has (hP : KeptByReactions P) {s : State} (e : Event) (h : ResponderHas P s) :
    ResponderHas P (emit e s) := by
  intro rr hr
  rw [emit_responder] at hr
  obtain ⟨q, hq, rfl⟩ := Option.map_eq_some_iff.1 hr
  exact hP _ _ _ _ _ (h q hq)

theorem edgeStep_has (hP : KeptByReactions P) {s : State} (src dst : ModeCode) (h : ResponderHas P s) :
    ResponderHas P (edgeStep src dst s) := emit_has hP _ (emit_has hP _ h)

theorem busOut_has {s : State} (v : Byte) (h : ResponderHas P s) : ResponderHas P (busOut v s) := by
  rw [busOut_eq]; exact h

theorem busIn_has {s : State} (h : ResponderHas P s) : ResponderHas P (busIn s) := by rw [busIn_eq]; exact h

theorem latchSeq_has (hP : KeptByReactions P) {s : State} (a : Byte) (h : ResponderHas P s) :
    ResponderHas P (latchSeq a s) := by
  unfold latchSeq latchPath
  split <;> (repeat apply edgeStep_has hP) <;> exact busOut_has a h

theorem pulseSeq_has (hP : KeptByReactions P) {s : State} (h : ResponderHas P s) : ResponderHas P (pulseSeq s) :=
  edgeStep_has hP _ _ (emit_has hP _ (edgeStep_has hP _ _ h))

theorem readSeq_has {s : State} (h : ResponderHas P s) : ResponderHas P (readSeq s).2 := by
  rw [readSeq_state]; exact h

theorem critEnter_has {s : State} (h : ResponderHas P s) : ResponderHas P (critEnter s) := by
  intro rr hr; rw [critEnter_responder] at hr; exact h rr hr

theorem critExit_has {s : State} (h : ResponderHas P s) : ResponderHas P (critExit s) := by
  intro rr hr; rw [critExit_responder] at hr; exact h rr hr

theorem wtrBody_has (hP : KeptByReactions P) {s : State} (r : Nibble) (d : Byte) (h : ResponderHas P s) :
    ResponderHas P (wtrBody r d s).2 := by
  rw [wtrBody_eq]
  exact critExit_has (readSeq_has (pulseSeq_has hP (busOut_has d (latchSeq_has hP _ (critEnter_has h)))))

theorem scan_has (hP : KeptByReactions P) (n : Nat) {s : State} (h : ResponderHas P s) :
    ResponderHas P (scan n s).2 := by
  induction n generalizing s with
  | zero => exact h
  | succ n ih =>
    unfold scan
    split
    · have hp : ResponderHas P (probe s).2 := wtrBody_has hP _ _ h
      simp only
      split
      · exact hp
      · exact ih hp
    · exact h

/-- Every command keeps what every reaction keeps. -/
theorem effect_has (hP : KeptByReactions P) (i : Instr) {s : State} (h : ResponderHas P s) :
    ResponderHas P (effectOf i s) := by
  cases i
  case begin =>
    simp only [effectOf, initialise_eq]
    intro rr hr
    simp only [respond_responder, resetResponder] at hr
    split at hr
    · obtain ⟨q, hq, rfl⟩ := Option.map_eq_some_iff.1 hr
      exact hP .a 0 0 .resetPulse _ (h q hq)
    · exact h rr hr
  case latch => exact latchSeq_has hP _ h
  case write =>
    exact busIn_has (critExit_has (pulseSeq_has hP (critEnter_has (busOut_has _ (latchSeq_has hP _ h)))))
  case read => exact readSeq_has (latchSeq_has hP _ h)
  case wtr => exact wtrBody_has hP _ _ h
  case setca => exact h
  case getca => exact h
  case findca => exact scan_has hP 16 (s := { s with cand := 0 }) h
  case setmode m =>
    simp only [effectOf]
    intro rr hr
    by_cases hm : s.mode = some m
    · rw [coarseChange_same hm] at hr; exact h rr hr
    · rw [coarseChange_eq hm] at hr
      obtain ⟨q, hq, rfl⟩ := Option.map_eq_some_iff.1 hr
      exact hP _ _ _ _ _ (h q hq)
  case busout => exact busOut_has _ h
  case busin => exact busIn_has h
  case bussample =>
    intro rr hr
    simp only [effectOf, respondSampled, sampleByte_state] at hr
    exact h rr hr
  all_goals exact edgeStep_has hP _ _ h

/-- A canonical register file of 16 registers is kept by every reaction. -/
theorem memory_kept :
    KeptByReactions fun rr => rr.regs.wf = true ∧ ∀ a, 16 ≤ a → rr.regs.read a = 0 := by
  intro v d l e rr h
  exact ⟨Responder.observe_wf _ _ _ _ _ h.1, fun a ha => Responder.observe_read_high _ _ _ _ _ h.1 ha (h.2 a ha)⟩

/-- The responder's parameters never change. -/
theorem parameters_kept (q : Responder) :
    KeptByReactions fun rr => rr.addr = q.addr ∧ rr.float = q.float ∧ rr.mask = q.mask := by
  intro v d l e rr h
  cases e <;> simp only [Responder.observe] <;> try exact h
  split
  · exact h
  · split
    · simpa using h
    · exact h

/-- A second latch of the same byte changes nothing, a store between them or not. -/
theorem latched_stored (cfg : Config) (a d : Byte) (rr : Responder) :
    latched cfg a (stored cfg d (latched cfg a rr)) = stored cfg d (latched cfg a rr) := by
  have h : ∀ (b : Byte) (q : Responder), (q.store b).latch q.la = q.store b := by
    intro b q; unfold Responder.store; split <;> rfl
  simp only [stored]
  conv_rhs => rw [← h ((latched cfg a rr).seen cfg.dataConn d) (latched cfg a rr)]
  simp [latched, Responder.seen]

/-- With every data line connected the responder sees the driven byte itself (R77). -/
theorem seen_connected (rr : Responder) {conn : Byte} (level : Byte) (h : conn = 0xFF) : rr.seen conn level = level := by
  subst h
  have h₁ : ∀ b : Byte, b &&& 0xFF#8 = b := by decide
  have h₂ : ∀ b : Byte, b &&& ~~~(0xFF#8) = 0 := by decide
  have h₃ : ∀ f : Byte, (level &&& 0xFF) ||| (f &&& ~~~(0xFF#8)) = level := by
    intro f; rw [h₂, show level &&& 0xFF = level from h₁ level]; simp
  exact h₃ _

/-- The halves of a composite address (R61). -/
theorem address_parts (ca r : Nibble) :
    (ca ++ r : BitVec 8).extractLsb' 4 4 = ca ∧ (ca ++ r : BitVec 8).extractLsb' 0 4 = r := by
  revert ca r; decide

end Sys2Proof.Machine
end

