-- ==== Sys2Proof/Laws/Step.lean ====
section
/-! SUPPORT. What a step can do, said once (R20, R21, R258). -/

namespace Sys2Proof.Machine

theorem step_idle {s : State} (hs : s.stop = .run) (hp : s.port = []) : step s = .next s := by
  unfold step; split <;> simp_all

theorem step_setIe {s : State} {b : Bool} {more : List HostInput} (hs : s.stop = .run)
    (hp : s.port = .setIe b :: more) : step s = .next (hostSetIe b (consume more s)) := by
  unfold step; split <;> simp_all

theorem step_command {s : State} {w : Word} {more : List HostInput} {i : Instr} (hs : s.stop = .run)
    (hp : s.port = .command w :: more) (hd : decode s.cfg w = .ok i) : step s = exec i (consume more s) := by
  unfold step; split <;> simp_all

theorem step_refused {s : State} {w : Word} {more : List HostInput} {c : RefusalCode} (hs : s.stop = .run)
    (hp : s.port = .command w :: more) (hd : decode s.cfg w = .error c) :
    step s = .next (refuse c (consume more s)) := by
  unfold step; split <;> simp_all

/-- Whatever a step answers. -/
theorem step_next {s t : State} (h : step s = .next t) :
    s.stop = .run ∧ (t = s ∨ (∃ b more, t = hostSetIe b (consume more s)) ∨
      (∃ c more, t = refuse c (consume more s)) ∨ ∃ i more, exec i (consume more s) = .next t) := by
  unfold step at h
  split at h
  · cases h
  · cases h
  · refine ⟨‹_›, ?_⟩
    split at h
    · injection h with h; exact .inl h.symm
    · injection h with h; exact .inr (.inl ⟨_, _, h.symm⟩)
    · split at h
      · exact .inr (.inr (.inr ⟨_, _, h⟩))
      · injection h with h; exact .inr (.inr (.inl ⟨_, _, h.symm⟩))

end Sys2Proof.Machine
end

