-- ==== Sys2Proof/Laws/TraceShape.lean ====
section
/-! SUPPORT. A property of event lists that holds of every piece a command's trace is made of, and of pieces put
together, holds of every command's own trace: the one induction that claims about traces need. -/

namespace Sys2Proof.Machine

/-- The events of one WtrBody (R228): address byte `a` from bus direction `dir`, data byte `d`, byte read `b`. -/
def wtrEvents (cfg : Config) (ie : Bool) (a : Byte) (dir : BusDir) (d b : Byte) : List Event :=
  [.crit .enter ie] ++ busOutEvents a dir ++ latchEvents cfg ++ [.drive d] ++ edgeEvents cfg 0b010#3 0b110#3 ++
    [.holdWrite] ++ edgeEvents cfg 0b110#3 0b010#3 ++ [.dir .input] ++ edgeEvents cfg 0b010#3 0b011#3 ++
    sampleEvents cfg b ++ edgeEvents cfg 0b011#3 0b010#3 ++ [.crit .exit ie]

/-- The events of WRITE after its latch (R195). -/
def pulseSectionEvents (cfg : Config) (ie : Bool) (d : Byte) : List Event :=
  [.drive d, .crit .enter ie] ++ edgeEvents cfg 0b010#3 0b110#3 ++ [.holdWrite] ++ edgeEvents cfg 0b110#3 0b010#3 ++
    [.crit .exit ie, .dir .input]

/-- The events of BEGIN (R241). -/
def beginEvents (s : State) : List Event :=
  [.initCtl (restLevels s.cfg)] ++ returnEvents s.mode ++ [.dir .input] ++ resetEvents s.cfg

/-- `Q` holds of every piece of a trace that starts in `s`, and of pieces put together. -/
structure HoldsOfPieces (Q : List Event → Prop) (s : State) : Prop where
  none : Q []
  append : ∀ es fs, Q es → Q fs → Q (es ++ fs)
  busOut : ∀ a d, Q (busOutEvents a d)
  busIn : ∀ d, Q (busInEvents d)
  edge : ∀ src dst, Q (edgeEvents s.cfg src dst)
  coarse : ∀ (src : Option ModeCode) (m : ModeCode), Q [.ctl (connectedOnly s.cfg (linesFrom src m)), .mode src m]
  samples : ∀ b, Q (sampleEvents s.cfg b)
  latch : Q (latchEvents s.cfg)
  begins : Q (beginEvents s)
  pulse : ∀ d, Q (pulseSectionEvents s.cfg s.hostIe d)
  wtr : ∀ a dir d b, Q (wtrEvents s.cfg s.hostIe a dir d b)

/-- The events of one candidate of the scan. -/
theorem probe_events (s : State) :
    (probe s).2.trace = s.trace ++ wtrEvents s.cfg s.hostIe (composite (candidateNibble s.cand) s.cfg.scanReg) s.dbusDir
      s.cfg.scanSentinel (probe s).1 := by
  unfold probe wtrEvents; rw [wtrBody_state]; simp only [List.append_assoc]

theorem scan_events {Q : List Event → Prop} {cfg : Config} {ie : Bool} (h0 : Q [])
    (happ : ∀ es fs, Q es → Q fs → Q (es ++ fs)) (hp : ∀ a dir b, Q (wtrEvents cfg ie a dir cfg.scanSentinel b))
    (n : Nat) (s : State) (hc : s.cfg = cfg) (hi : s.hostIe = ie) :
    ∃ es, (scan n s).2.trace = s.trace ++ es ∧ Q es := by
  induction n generalizing s with
  | zero => exact ⟨[], by simp [scan], h0⟩
  | succ n ih =>
    unfold scan
    split
    · have hb := probe_events s
      rw [hc, hi] at hb
      obtain ⟨_, _, _, _, he⟩ := probe_state s
      simp only
      split
      · exact ⟨_, hb, hp _ _ _⟩
      · obtain ⟨es, h₁, h₂⟩ := ih { (probe s).2 with cand := (probe s).2.cand + 1 } (by rw [he]; exact hc)
          (by rw [he]; exact hi)
        exact ⟨_ ++ es, by rw [h₁]; simp only [hb, List.append_assoc]; rfl, happ _ _ (hp _ _ _) h₂⟩
    · exact ⟨[], by simp, h0⟩

/-- What every effect appends. -/
theorem effect_events {Q : List Event → Prop} {s : State} (h : HoldsOfPieces Q s) (i : Instr) :
    ∃ es, (effectOf i s).trace = s.trace ++ es ∧ Q es := by
  cases i <;> simp only [effectOf]
  case begin =>
    exact ⟨_, by simp only [respond, initialise_eq, List.append_assoc]; rfl, by simpa [beginEvents] using h.begins⟩
  case latch => exact ⟨_, by simp only [respond, latchSeq_eq, List.append_assoc]; rfl, h.append _ _ (h.busOut _ _) h.latch⟩
  case write r d =>
    exact ⟨_, by simp only [respond, writeSeq_eq, List.append_assoc]; rfl,
      h.append _ _ (h.busOut _ _) (h.append _ _ h.latch (by simpa [pulseSectionEvents] using h.pulse d))⟩
  case read =>
    exact ⟨_, by simp only [respondRead, respond, readSeq_state, latchSeq_eq, List.append_assoc]; rfl,
      h.append _ _ (h.busOut _ _) (h.append _ _ h.latch (h.append _ _ (h.busIn _) (h.append _ _ (h.edge _ _)
        (h.append _ _ (h.samples _) (h.edge _ _)))))⟩
  case wtr =>
    exact ⟨_, by simp only [respondWtr, respond, wtrBody_state, List.append_assoc]; rfl,
      by simpa [wtrEvents] using h.wtr _ _ _ _⟩
  case setca => exact ⟨[], by simp, h.none⟩
  case getca => exact ⟨[], by simp, h.none⟩
  case findca =>
    exact scan_events h.none h.append (fun a d b => h.wtr a d _ b) 16 { s with cand := 0 } rfl rfl
  case setmode m =>
    by_cases hm : s.mode = some m
    · exact ⟨[], by simp [coarseChange_same hm], h.none⟩
    · exact ⟨_, by rw [coarseChange_eq hm]; rfl, h.coarse _ _⟩
  case busout => exact ⟨_, by simp only [respond, busOut_eq]; rfl, h.busOut _ _⟩
  case busin => exact ⟨_, by simp only [respond, busIn_eq]; rfl, h.busIn _⟩
  case bussample => exact ⟨_, by simp only [respondSampled, respond, sampleByte_state]; rfl, h.samples _⟩
  all_goals exact ⟨_, by simp only [respond_trace, edgeStep_trace]; rfl, h.edge _ _⟩

/-- What every command appends, whether it completes or stops. -/
theorem exec_events {Q : List Event → Prop} {i : Instr} {s t : State} (hq : HoldsOfPieces Q s)
    (h : exec i s = .next t) : Q (newEvents s t) := by
  obtain ⟨-, ⟨c, -, rfl⟩ | ⟨-, c, -, rfl⟩ | ⟨-, -, rfl⟩⟩ := exec_next h
  · rw [newEvents_same (s := s) (t := refuse c s) rfl]; exact hq.none
  · rw [newEvents_same (s := s) (t := raiseFault c s) rfl]; exact hq.none
  · obtain ⟨es, h₁, h₂⟩ := effect_events hq i
    rw [newEvents_append h₁]; exact h₂

end Sys2Proof.Machine
end

