-- ==== Sys2Proof/Tests/Slice0.lean ====
section
/-! SUPPORT. The model's own tests: well-formedness, decoding of words written out from the spec, one step per
command against 95_test_vectors, and a witness for every statement that has hypotheses. -/

namespace Sys2Proof.Tests

open Sys2Proof Sys2Proof.Machine

/-! Well-formedness: one ill-formed term per check. -/

theorem test_wf_edgeA_in_B : [Instr.m010to000, .m000to001, .m001to000, .m000to010].map (·.wellFormed Config.b0) =
    [false, false, false, false] := by decide

theorem test_wf_edgeB_in_A : [Instr.m010to111, .m111to010].map (·.wellFormed Config.a0) = [false, false] := by decide

theorem test_wf_setmode_needs_coarse : (Instr.setmode 0b010#3).wellFormed Config.a0 = false := by decide

theorem test_wf_setmode_needs_named : (Instr.setmode 0b100#3).wellFormed tableConfigA = false ∧
    (Instr.setmode 0b000#3).wellFormed Config.b0 = false := by decide

theorem test_wf_accepts : (Instr.m010to000).wellFormed Config.a0 = true ∧ (Instr.m111to010).wellFormed Config.b0 = true ∧
    (Instr.setmode 0b001#3).wellFormed tableConfigA = true := by decide

/-! Decoding: words written out from R113, R95 and R96, one per constructor. -/

theorem test_decode_begin : decode Config.a0 0b0000_0000_0000_0000#16 = .ok .begin := by decide
theorem test_decode_latch : decode Config.a0 0b0001_1111_0000_0000#16 = .ok (.latch 15) := by decide
theorem test_decode_write : decode Config.a0 0b0010_0111_0011_1000#16 = .ok (.write 7 0x38) := by decide
theorem test_decode_read : decode Config.a0 0b0011_1011_0000_0000#16 = .ok (.read 11) := by decide
theorem test_decode_wtr : decode Config.a0 0b0100_1011_0111_1010#16 = .ok (.wtr 11 0x7A) := by decide
theorem test_decode_setca : decode Config.a0 0b0101_0000_0011_0101#16 = .ok (.setca 0x35) := by decide
theorem test_decode_getca : decode Config.a0 0b0110_0000_0000_0000#16 = .ok .getca := by decide
theorem test_decode_findca : decode Config.a0 0b0111_0000_0000_0000#16 = .ok .findca := by decide
theorem test_decode_m010to000 : decode Config.a0 0b1000_0000_0001_0000#16 = .ok .m010to000 := by decide
theorem test_decode_m000to001 : decode Config.a0 0b1000_0000_0000_0001#16 = .ok .m000to001 := by decide
theorem test_decode_m001to000 : decode Config.a0 0b1000_0000_0000_1000#16 = .ok .m001to000 := by decide
theorem test_decode_m000to010 : decode Config.a0 0b1000_0000_0000_0010#16 = .ok .m000to010 := by decide
theorem test_decode_m010to110 : decode Config.a0 0b1000_0000_0001_0110#16 = .ok .m010to110 := by decide
theorem test_decode_m110to010 : decode Config.a0 0b1000_0000_0011_0010#16 = .ok .m110to010 := by decide
theorem test_decode_m010to011 : decode Config.a0 0b1000_0000_0001_0011#16 = .ok .m010to011 := by decide
theorem test_decode_m011to010 : decode Config.a0 0b1000_0000_0001_1010#16 = .ok .m011to010 := by decide
theorem test_decode_m010to111 : decode Config.b0 0b1000_0000_0001_0111#16 = .ok .m010to111 := by decide
theorem test_decode_m111to010 : decode Config.b0 0b1000_0000_0011_1010#16 = .ok .m111to010 := by decide
theorem test_decode_setmode : decode Config.b0 0b1001_0000_0000_0110#16 = .ok (.setmode 0b110#3) := by decide
theorem test_decode_busout : decode Config.a0 0b1010_0000_1010_0101#16 = .ok (.busout 0xA5) := by decide
theorem test_decode_busin : decode Config.a0 0b1011_0000_0000_0000#16 = .ok .busin := by decide
theorem test_decode_bussample : decode Config.a0 0b1100_0000_0000_0000#16 = .ok .bussample := by decide

/-- The same word is an edge in one variant and refused in the other (V1). -/
theorem test_decode_variants : decode Config.b0 0x8010 = .error .noSuchEdge ∧ decode Config.a0 0x8017 = .error .noSuchEdge ∧
    decode Config.b0 0x8016 = .ok .m010to110 ∧ decode Config.a0 0x800B = .error .noSuchEdge ∧
    decode Config.b0 0x801F = .error .noSuchEdge ∧ decode Config.a0 0x8012 = .error .noSuchEdge := by decide

/-- The refusals and the order of the checks (V1). -/
theorem test_decode_refusals : decode Config.a0 0xF123 = .error .reservedOp ∧ decode Config.a0 0x0001 = .error .nonzeroMbz ∧
    decode Config.a0 0x5100 = .error .nonzeroMbz ∧ decode Config.a0 0x8040 = .error .nonzeroMbz ∧
    decode Config.a0 0x9008 = .error .nonzeroMbz ∧ decode Config.a0 0x9001 = .error .setmodeUnavailable ∧
    decode tableConfigA 0x9004 = .error .notAMode ∧ decode Config.b0 0x9000 = .error .notAMode := by decide

theorem test_encode : encode (.wtr 11 0x7A) = 0x4B7A ∧ encode (.setmode 0b111#3) = 0x9007 ∧ encode .m111to010 = 0x803A := by
  decide

/-- Both variants' rows decode from the numbering of the opcode table. -/
theorem test_decodeTableWord : decodeTableWord 16 0x8001 = some .m000to001 ∧ decodeTableWord 16 0x8017 = some .m010to111 ∧
    decodeTableWord 16 0x9001 = some (.setmode 0b001#3) ∧ decodeTableWord 16 0xD000 = none := by decide

/-! States. -/

/-- "Begun at REST" of 95_test_vectors under Config A0. -/
def atRestA : State := { State.reset with init := true, mode := some rest }

/-- "Begun at REST" under Config B0. -/
def atRestB : State := { atRestA with cfg := Config.b0 }

/-- `s` with the bus OUT driving `v`. -/
def driving (v : Byte) (s : State) : State := { s with dbusDir := .output, dbusOut := some v }

/-- `s` in mode `m`. -/
def inMode (m : ModeCode) (s : State) : State := { s with mode := some m }

/-- `s` with a reference responder at chip address `a` on the bus. -/
def withRR (a : Nibble) (s : State) : State := { s with responder := some { addr := a } }

/-- `s` with its command port holding one word. -/
def given (w : Word) (s : State) : State := { s with port := [.command w] }

/-- The register of the responder at index `r`. -/
def rrReg (t : State) (r : Nat) : Option Byte := t.responder.map fun rr => rr.regs.read r

/-! One step per command (95_test_vectors, V2 to V10). -/

/-- V9, first row. -/
theorem test_begin : nextSatisfies (step (given 0x0000 (withRR 0 State.reset))) (fun t =>
    t.init && t.mode == some 0b010#3 && t.trace == [.initCtl [(.bdir, false), (.bc2, true), (.bc1, false)],
      .mode none 0b010#3, .dir .input, .resetPulse]) = true := by decide

/-- V9: BEGIN from LATCH_ADDR with the bus OUT keeps the latch (R297). -/
theorem test_begin_from_latch : nextSatisfies (exec .begin (driving 0x07 (inMode 0b001#3 atRestA))) (fun t =>
    t.mode == some 0b010#3 && t.dbusDir == .input && t.dbusOut == some 0x07 &&
      t.trace == [.initCtl [(.bdir, false), (.bc2, true), (.bc1, false)], .mode (some 0b001#3) 0b010#3, .dir .input,
        .resetPulse]) = true := by decide

/-- V5, second row: 9 events, the latch of 0xF3. -/
theorem test_latch : nextSatisfies (exec (.latch 3) { driving 0x99 (withRR 0 atRestA) with ca := 15 }) (fun t =>
    t.dbusOut == some 0xF3 && t.dbusDir == .output && t.mode == some 0b010#3 && t.trace.length == 9 &&
      t.responder.map (·.la) == some 0xF3) = true := by decide

/-- V5, third row: LAT_B. -/
theorem test_latch_b : nextSatisfies (exec (.latch 11) { atRestB with ca := 2 }) (fun t =>
    t.trace == [.drive 0x2B, .dir .output, .ctl [(.bdir, true), (.bc1, true)], .mode (some 0b010#3) 0b111#3,
      .ctl [(.bdir, false), (.bc1, false)], .mode (some 0b111#3) 0b010#3]) = true := by decide

/-- V6, first row. -/
theorem test_write : nextSatisfies (exec (.write 7 0x38) (withRR 0 atRestA)) (fun t =>
    t.trace.length == 19 && t.dbusDir == .input && t.dbusOut == some 0x38 && t.hostIe && rrReg t 7 == some 0x38 &&
      t.trace.drop 10 == [.drive 0x38, .crit .enter true, .ctl [(.bdir, true)], .mode (some 0b010#3) 0b110#3, .holdWrite,
        .ctl [(.bdir, false)], .mode (some 0b110#3) 0b010#3, .crit .exit true, .dir .input]) = true := by decide

/-- V6, third row: the mask of register 3. -/
theorem test_write_masked : nextSatisfies (exec (.write 3 0x12) (withRR 0 atRestB)) (fun t =>
    t.trace.length == 15 && rrReg t 3 == some 0x02) = true := by decide

/-- V7, second row: nothing is selected, the bus floats. -/
theorem test_read_floats : nextSatisfies (exec (.read 7) (withRR 5 atRestA)) (fun t =>
    t.resp == .byte 0xFF && t.trace.length == 23 && t.dbusDir == .input && t.dbusOut == some 0x07) = true := by decide

/-- V7, fifth row: four lines connected, the high address lines float (R295). -/
theorem test_read_unconnected : nextSatisfies (exec (.read 0)
    { atRestA with cfg := { Config.a0 with dataConn := 0x0F }, responder := some { addr := 15, regs := [(0, 0x05)] } })
    (fun t => t.resp == .byte 0x05 && t.trace.length == 19 && t.responder.map (·.la) == some 0xF0) = true := by decide

/-- V8, first row. -/
theorem test_wtr : nextSatisfies (exec (.wtr 11 0x7A) { withRR 2 atRestA with ca := 2 }) (fun t =>
    t.resp == .byte 0x7A && t.trace.length == 31 && t.trace.head? == some (.crit .enter true) &&
      t.trace.getLast? == some (.crit .exit true) && rrReg t 11 == some 0x7A) = true := by decide

/-- V8, second row: the mask of register 3 reads back. -/
theorem test_wtr_masked : nextSatisfies (exec (.wtr 3 0xFF) (withRR 0 atRestB)) (fun t =>
    t.resp == .byte 0x0F && t.trace.length == 27) = true := by decide

/-- WE4. -/
theorem test_setca : nextSatisfies (exec (.setca 0x35) State.reset) (fun t => t.ca == 3 && t.resp == .none) = true ∧
    nextSatisfies (exec (.setca 0x0F) State.reset) (fun t => t.ca == 0) = true := by decide

/-- WE4. -/
theorem test_getca : nextSatisfies (exec .getca { State.reset with ca := 15 }) (fun t => t.resp == .byte 0xF0) = true := by
  decide

/-- WE3. -/
theorem test_findca : nextSatisfies (exec .findca { withRR 2 atRestA with ca := 3 }) (fun t =>
    t.resp == .found 0x20 && t.ca == 3 && t.cand == 0 && t.trace.length == 93 && rrReg t 11 == some 0x7A &&
      t.responder.map (·.la) == some 0x2B) = true := by decide +kernel

/-- V10: SCAN_REG = 1 keeps four bits only, so no candidate matches. -/
theorem test_findca_notfound : nextSatisfies (exec .findca
    { withRR 0 atRestA with cfg := { Config.a0 with scanReg := 1 }, ca := 4 }) (fun t =>
    t.resp == .notFound && t.ca == 4 && t.trace.length == 496) = true := by decide +kernel

/-- V2, EA1. -/
theorem test_m010to000 : nextSatisfies (exec .m010to000 atRestA) (fun t =>
    t.mode == some 0b000#3 && t.trace == [.ctl [(.bc2, false)], .mode (some 0b010#3) 0b000#3]) = true := by decide

/-- V2, EA2. -/
theorem test_m000to001 : nextSatisfies (exec .m000to001 (driving 0x07 (inMode 0b000#3 (withRR 0 atRestA)))) (fun t =>
    t.mode == some 0b001#3 && t.trace == [.ctl [(.bc1, true)], .mode (some 0b000#3) 0b001#3] &&
      t.responder.map (·.la) == some 0x07) = true := by decide

/-- V2, EA3. -/
theorem test_m001to000 : nextSatisfies (exec .m001to000 (driving 0x07 (inMode 0b001#3 atRestA))) (fun t =>
    t.mode == some 0b000#3 && t.trace == [.ctl [(.bc1, false)], .mode (some 0b001#3) 0b000#3]) = true := by decide

/-- V2, EA4. -/
theorem test_m000to010 : nextSatisfies (exec .m000to010 (driving 0x07 (inMode 0b000#3 atRestA))) (fun t =>
    t.mode == some 0b010#3 && t.trace == [.ctl [(.bc2, true)], .mode (some 0b000#3) 0b010#3]) = true := by decide

/-- V2, EA5. -/
theorem test_m010to110 : nextSatisfies (exec .m010to110 (driving 0x55 (withRR 0 atRestA))) (fun t =>
    t.mode == some 0b110#3 && t.trace == [.ctl [(.bdir, true)], .mode (some 0b010#3) 0b110#3] &&
      rrReg t 0 == some 0x55) = true := by decide

/-- V2, EA6. -/
theorem test_m110to010 : nextSatisfies (exec .m110to010 (driving 0x55 (inMode 0b110#3 atRestA))) (fun t =>
    t.mode == some 0b010#3 && t.trace == [.ctl [(.bdir, false)], .mode (some 0b110#3) 0b010#3]) = true := by decide

/-- V2, EA7, and its contention fault. -/
theorem test_m010to011 : nextSatisfies (exec .m010to011 atRestA) (fun t =>
      t.mode == some 0b011#3 && t.trace == [.ctl [(.bc1, true)], .mode (some 0b010#3) 0b011#3]) = true ∧
    nextSatisfies (exec .m010to011 (driving 0x07 atRestA)) (fun t =>
      t.stop == .fault .busContention && t.mode == some 0b010#3 && t.trace == []) = true := by decide

/-- V2, EA8. -/
theorem test_m011to010 : nextSatisfies (exec .m011to010 (inMode 0b011#3 atRestA)) (fun t =>
    t.mode == some 0b010#3 && t.trace == [.ctl [(.bc1, false)], .mode (some 0b011#3) 0b010#3]) = true := by decide

/-- V2, EB5. -/
theorem test_m010to111 : nextSatisfies (exec .m010to111 (driving 0x2B (withRR 0 atRestB))) (fun t =>
    t.mode == some 0b111#3 && t.trace == [.ctl [(.bdir, true), (.bc1, true)], .mode (some 0b010#3) 0b111#3] &&
      t.responder.map (·.la) == some 0x2B) = true := by decide

/-- V2, EB6. -/
theorem test_m111to010 : nextSatisfies (exec .m111to010 (driving 0x2B (inMode 0b111#3 atRestB))) (fun t =>
    t.mode == some 0b010#3 && t.trace == [.ctl [(.bdir, false), (.bc1, false)], .mode (some 0b111#3) 0b010#3]) = true := by
  decide

/-- V3: two lines in one update. -/
theorem test_setmode : nextSatisfies (exec (.setmode 0b110#3) (driving 0x55 (inMode 0b000#3 { atRestA with cfg := tableConfigA })))
    (fun t => t.mode == some 0b110#3 &&
      t.trace == [.ctl [(.bdir, true), (.bc2, true)], .mode (some 0b000#3) 0b110#3]) = true := by decide

/-- V3: to the current mode nothing is emitted; with the bus IN a write pulse is UNDRIVEN_BUS. -/
theorem test_setmode_corners : nextSatisfies (exec (.setmode 0b010#3) { atRestA with cfg := tableConfigA }) (fun t =>
      t.mode == some 0b010#3 && t.trace == []) = true ∧
    nextSatisfies (exec (.setmode 0b110#3) { atRestA with cfg := tableConfigA }) (fun t =>
      t.stop == .fault .undrivenBus) = true := by decide

/-- V4: DRIVE before DIR, and no DIR where the bus is OUT. -/
theorem test_busout : nextSatisfies (exec (.busout 0x0B) atRestA) (fun t =>
      t.trace == [.drive 0x0B, .dir .output] && t.dbusOut == some 0x0B) = true ∧
    nextSatisfies (exec (.busout 0xA5) (driving 0xA5 atRestA)) (fun t => t.trace == [.drive 0xA5]) = true := by decide

/-- V4. -/
theorem test_busout_faults : nextSatisfies (exec (.busout 1) (inMode 0b011#3 atRestA)) (fun t =>
      t.stop == .fault .busContention) = true ∧
    nextSatisfies (exec (.busout 1) (driving 0 (inMode 0b110#3 atRestA))) (fun t =>
      t.stop == .fault .busChangeInPulse) = true := by decide

/-- V4: the latch is kept; in LATCH_ADDR it is UNDRIVEN_BUS. -/
theorem test_busin : nextSatisfies (exec .busin (driving 0x0B atRestA)) (fun t =>
      t.trace == [.dir .input] && t.dbusDir == .input && t.dbusOut == some 0x0B) = true ∧
    nextSatisfies (exec .busin (driving 0x0B (inMode 0b001#3 atRestA))) (fun t => t.stop == .fault .undrivenBus) = true := by
  decide

/-- V4: 0x5A, D0 first. -/
theorem test_bussample : nextSatisfies (exec .bussample
    { inMode 0b011#3 atRestA with responder := some { addr := 0, regs := [(0, 0x5A)] } }) (fun t =>
    t.resp == .byte 0x5A && t.trace == [.sample 0 false, .sample 1 true, .sample 2 false, .sample 3 true, .sample 4 true,
      .sample 5 false, .sample 6 true, .sample 7 false]) = true := by decide

/-- V4: only D0 and D7 connected; and the fault with the bus OUT. -/
theorem test_bussample_connected : nextSatisfies (exec .bussample
      { inMode 0b011#3 atRestA with
        cfg := { Config.a0 with dataConn := 0x81 }, responder := some { addr := 0, regs := [(0, 0xFF)] } }) (fun t =>
      t.resp == .byte 0x81 && t.trace == [.sample 0 true, .sample 7 true]) = true ∧
    nextSatisfies (exec .bussample (driving 0 atRestA)) (fun t => t.stop == .fault .sampleWhileDriving) = true := by decide

/-- The codes of the stops and of the response port (R41, R251, R254, R256). -/
theorem test_codes : [RefusalCode.reservedOp, .nonzeroMbz, .noSuchEdge, .setmodeUnavailable, .notAMode].map (·.code) =
      [0x11, 0x12, 0x13, 0x14, 0x15] ∧
    [FaultCode.notBegun, .modeMismatch, .notResting, .busContention, .undrivenBus, .busChangeInPulse,
      .sampleWhileDriving].map (·.code) = [0x21, 0x22, 0x23, 0x24, 0x25, 0x26, 0x27] := by decide

/-- The assembler's text (R110, R111). -/
theorem test_text : asmText (.wtr 11 0x7A) = "WTR 11, 122" ∧ asmText (.setmode 0b110#3) = "SETMODE 110" ∧
    xferText 0b010#3 0b000#3 = "XFER 010, 000" := by decide

/-! Witnesses: a concrete state and operands that meet the hypotheses of each statement that has any, one per clause. -/

/-- A next state that passes a test exists where the test passes. -/
theorem exists_next {o : Host.Outcome State Fault Refusal} {p : State → Bool} (h : nextSatisfies o p = true) :
    ∃ t, o = .next t ∧ p t = true := by
  unfold nextSatisfies at h
  split at h
  · exact ⟨_, rfl, h⟩
  · cases h
  · cases h

theorem witness_ConstructionNeedsValidWiring :
    configError Config.a0 = none ∧ configError Config.b0 = none ∧
    configError { Config.a0 with bc2Conn := false } = some .ctlLineUnconnected ∧
    configError { Config.b0 with coarseEdgesOk := false } = some .variantBNeedsCoarse ∧
    configError { Config.b0 with bdirConn := false, coarseEdgesOk := false } = some .ctlLineUnconnected := by decide

theorem witness_ConstructionAndFirstBegin : configValid Config.a0 = true ∧ configValid Config.b0 = true ∧
    ctlConn Config.a0 .bc2 = true ∧ lineConnected Config.a0 7 = true := by decide

/-- The reference responder at chip address 15 has a canonical memory. -/
theorem atRest_inv : (withRR 15 atRestA).Inv ∧ (driving 0x07 (withRR 15 atRestA)).Inv := by
  have hm : ∀ m : ModeCode, some rest = some m → isRead m = false ∧ isLatch .a m = false ∧ isWrite m = false := by decide
  have hc : ∀ rr : Responder, some ({ addr := 15 } : Responder) = some rr →
      rr.regs.wf = true ∧ ∀ a, 16 ≤ a → rr.regs.read a = 0 := by rintro _ ⟨⟩; exact ⟨rfl, fun _ _ => rfl⟩
  refine ⟨⟨by decide, by decide, ⟨nofun, fun _ => ⟨rest, rfl, by decide⟩⟩, ⟨fun _ _ _ => rfl, fun m h hw => ?_, nofun⟩, hc⟩,
    ⟨by decide, by decide, ⟨nofun, fun _ => ⟨rest, rfl, by decide⟩⟩, ⟨fun m h hr => ?_, fun _ _ _ => rfl, nofun⟩, hc⟩⟩
  · have := hm m h
    simp only [withRR, atRestA, State.reset, Config.a0, this.2.1, this.2.2] at hw
    simp at hw
  · have := hm m h; simp [this.1] at hr

theorem witness_StepKeepsInvariant : ∃ s t : State, s.Inv ∧ step s = .next t ∧ t.responder ≠ s.responder := by
  obtain ⟨t, h, hp⟩ := exists_next (o := step (given 0x1700 (withRR 15 atRestA)))
    (p := fun t => t.responder != (withRR 15 atRestA).responder) (by decide)
  exact ⟨given 0x1700 (withRR 15 atRestA), t, atRest_inv.1, h, by simpa [given] using hp⟩

theorem witness_StepRunsDecodedInstruction :
    (given 0x1F00 atRestA).stop = .run ∧ (given 0x1F00 atRestA).port = .command 0x1F00 :: [] ∧
    decode (given 0x1F00 atRestA).cfg 0x1F00 = .ok (.latch 15) ∧
    decode atRestB.cfg (BitVec.ofNat 16 0x8017) = .ok .m010to111 := by decide

theorem witness_StoppedBlockHasNoStep : ({ atRestA with stop := .fault .notResting } : State).stop ≠ .run ∧
    ({ atRestA with stop := .refused .reservedOp } : State).stop ≠ .run := by decide

theorem witness_RefusedWordOnlyStops : (given 0xF123 atRestA).stop = .run ∧
    (given 0xF123 atRestA).port = .command 0xF123 :: [] ∧ decode (given 0xF123 atRestA).cfg 0xF123 = .error .reservedOp := by
  decide

theorem witness_HostInputsBetweenCommands : ({ atRestA with port := [.setIe false] } : State).port = .setIe false :: [] ∧
    atRestA.port = [] ∧ atRestA.stop = .run := by decide

theorem witness_StopsArePrecise :
    (∃ t, step (given 0xF123 atRestA) = .next t ∧ (t.stop != .run) = true) ∧
    (∃ t, exec (.latch 0) (inMode 0b000#3 atRestA) = .next t ∧ (t.stop != .run) = true) ∧
    (∃ t, exec .m010to111 atRestA = .next t ∧ (t.stop != .run) = true) :=
  ⟨exists_next (by decide), exists_next (by decide), exists_next (by decide)⟩

theorem witness_BusCommandsNeedBegin : State.reset.stop = .run ∧ State.reset.init = false ∧
    (Instr.setca 0x35).wellFormed State.reset.cfg = true ∧ Instr.findca.wellFormed State.reset.cfg = true := by decide

theorem witness_TransactionsNeedRest : State.reset.init = false ∧
    (inMode 0b000#3 atRestA).init = true ∧ (inMode 0b000#3 atRestA).mode ≠ some 0b010#3 ∧
    atRestA.stop = .run ∧ atRestA.init = true ∧ atRestA.mode = some 0b010#3 := by decide

theorem witness_DecodeOfEncode : (Instr.write 15 0xFF).wellFormed Config.a0 = true ∧
    (Instr.setmode 0b111#3).wellFormed Config.b0 = true := by decide

theorem witness_AcceptedWordIsItsEncoding : decode Config.b0 0x803A = .ok .m111to010 := by decide

/-- One word for each branch of the decoder's chain of checks, the first and the last op of each range. -/
theorem witness_DecoderChecksInOrder : (0xC000#16 >>> 12).toNat = 12 ∧ (0xD000#16 >>> 12).toNat = 13 ∧
    0x0001#16 &&& 0x0FFF ≠ 0 ∧ Config.a0.coarseEdgesOk = false ∧ (0x9004#16).extractLsb' 0 3 = 0b100#3 ∧
    (0x8012#16).extractLsb' 3 3 = (0x8012#16).extractLsb' 0 3 := by decide

theorem witness_VariantAEdgesAreSingleBit : ∃ e ∈ edges .b, e.dst = 0b111#3 ∧ hd e.src e.dst = 2 := by decide

/-- Into an inactive mode, into LATCH_ADDR of each variant, into READ_DATA, into WRITE_DATA. -/
theorem witness_XferTakesOneEdge_completes :
    (atRestA.ready ∧ Instr.m010to000.wellFormed atRestA.cfg = true ∧ atRestA.mode = some 0b010#3) ∧
    ((driving 7 (inMode 0b000#3 atRestA)).ready ∧ (driving 7 (inMode 0b000#3 atRestA)).mode = some 0b000#3 ∧
      (driving 7 (inMode 0b000#3 atRestA)).dbusDir = .output) ∧
    ((driving 7 atRestB).ready ∧ Instr.m010to111.wellFormed (driving 7 atRestB).cfg = true ∧
      (driving 7 atRestB).mode = some 0b010#3 ∧ (driving 7 atRestB).dbusDir = .output) ∧
    (atRestB.ready ∧ Instr.m010to011.wellFormed atRestB.cfg = true ∧ atRestB.dbusDir = .input) := by decide

theorem witness_XferTakesOneEdge_faults :
    (atRestA.ready ∧ Instr.m000to001.wellFormed atRestA.cfg = true ∧ atRestA.mode ≠ some 0b000#3) ∧
    ((driving 7 atRestA).ready ∧ Instr.m010to011.wellFormed (driving 7 atRestA).cfg = true ∧
      (driving 7 atRestA).mode = some 0b010#3 ∧ (driving 7 atRestA).dbusDir = .output) ∧
    (atRestB.ready ∧ Instr.m010to111.wellFormed atRestB.cfg = true ∧ atRestB.mode = some 0b010#3 ∧
      latchAddr atRestB.cfg.variant = 0b111#3 ∧ atRestB.dbusDir = .input) := by decide

theorem witness_XferTakesOneEdge_refused : atRestA.stop = .run ∧ atRestA.cfg.variant = .a ∧ atRestB.stop = .run ∧
    atRestB.cfg.variant = .b := by decide

theorem witness_UnconnectedControlLine :
    let s : State := { atRestA with cfg := { Config.a0 with bc2Conn := false } }
    (hasEdge s.cfg.variant 0b010#3 0b000#3 = true ∧ lines 0b010#3 0b000#3 = [(.bc2, false)] ∧ ctlConn s.cfg .bc2 = false ∧
      s.ready ∧ s.mode = some 0b010#3 ∧ phaseCheck 0b000#3 s = none) ∧ configValid Config.b0 = true := by decide

theorem witness_SetmodeChangesMode :
    let s : State := { atRestA with cfg := tableConfigA }
    (s.ready ∧ s.cfg.coarseEdgesOk = true ∧ named s.cfg.variant 0b010#3 = true ∧ s.mode = some 0b010#3) ∧
    (named s.cfg.variant 0b011#3 = true ∧ s.dbusDir = .input) ∧
    (named s.cfg.variant 0b001#3 = true ∧ (driving 7 s).ready ∧ (driving 7 s).dbusDir = .output) := by decide

theorem witness_SetmodeChangesMode_stops :
    let s : State := { atRestA with cfg := tableConfigA }
    atRestA.cfg.coarseEdgesOk = false ∧ (s.cfg.coarseEdgesOk = true ∧ named s.cfg.variant 0b100#3 = false) ∧
    (s.stop = .run ∧ s.init = true ∧ named s.cfg.variant 0b011#3 = true ∧ s.mode ≠ some 0b011#3 ∧
      (driving 7 s).dbusDir = .output) ∧
    (named s.cfg.variant 0b110#3 = true ∧ s.mode ≠ some 0b110#3 ∧ s.dbusDir = .input) := by decide

theorem witness_BusoutDrives : atRestA.ready ∧ atRestA.mode = some 0b010#3 ∧ 0b010#3 ≠ latchAddr atRestA.cfg.variant ∧
    (driving 7 (inMode 0b000#3 atRestA)).ready := by decide

theorem witness_BusoutDrives_faults : ((inMode 0b011#3 atRestA).ready ∧ (inMode 0b011#3 atRestA).mode = some 0b011#3) ∧
    ((driving 7 (inMode 0b110#3 atRestA)).ready ∧ (driving 7 (inMode 0b110#3 atRestA)).mode = some 0b110#3) ∧
    (driving 7 (inMode 0b001#3 atRestA)).mode = some (latchAddr atRestA.cfg.variant) := by decide

theorem witness_BusinReleases : ((driving 7 atRestA).ready ∧ (driving 7 atRestA).mode = some 0b010#3) ∧
    ((inMode 0b011#3 atRestA).ready ∧ 0b011#3 ≠ latchAddr atRestA.cfg.variant) ∧
    ((driving 7 (inMode 0b001#3 atRestA)).ready ∧ 0b001#3 = latchAddr atRestA.cfg.variant) := by decide

theorem witness_BussampleReads : ((inMode 0b011#3 atRestA).ready ∧ (inMode 0b011#3 atRestA).dbusDir = .input) ∧
    ((driving 7 atRestA).ready ∧ (driving 7 atRestA).dbusDir = .output) := by decide

/-- For LatchLatchesAddress, WritePulsesTheByte, ReadAnswersTheBus, WtrWritesThenReads and FindcaCompletesAndRestores:
begun, at REST, in a valid configuration of either variant, with the bus IN and with it OUT; and where the entry
check faults. -/
theorem witness_transactions : (configValid atRestA.cfg = true ∧ atRestA.atRest) ∧
    (configValid atRestB.cfg = true ∧ (driving 7 atRestB).atRest) ∧
    (configValid State.reset.cfg = true ∧ State.reset.stop = .run ∧ State.reset.init = false) ∧
    ((inMode 0b000#3 atRestA).stop = .run ∧ (inMode 0b000#3 atRestA).mode ≠ some 0b010#3) := by decide

/-- For SetcaKeepsTopNibble and GetcaAnswersChipAddress: before BEGIN and after. -/
theorem witness_SetcaAndGetca : State.reset.stop = .run ∧ atRestA.stop = .run := by decide

/-- `chain k` of the scan statement, computed by running the WTRs. -/
def scanChain (s : State) : Nat → State
  | 0 => s
  | k + 1 =>
    match exec (.wtr s.cfg.scanReg s.cfg.scanSentinel) { scanChain s k with ca := BitVec.ofNat 4 k } with
    | .next t => t
    | .fault _ => scanChain s k
    | .refused _ => scanChain s k

theorem scanChain_runs (s : State) (h : s.atRest) (k : Nat) : (scanChain s k).atRest ∧
    exec (.wtr s.cfg.scanReg s.cfg.scanSentinel) { scanChain s k with ca := BitVec.ofNat 4 k } =
      .next (scanChain s (k + 1)) := by
  have run : ∀ t : State, t.atRest → ∃ u, exec (.wtr s.cfg.scanReg s.cfg.scanSentinel) t = .next u ∧ u.atRest := by
    intro t ht
    refine ⟨_, exec_transaction ht rfl rfl, ⟨?_, ?_⟩, ?_⟩
    · rw [effect_stop]; exact ht.1.1
    · simp [effectOf, respondWtr, wtrBody_state, ht.1.2]
    · simp [effectOf, respondWtr, wtrBody_state]
  have next : ∀ k, (scanChain s k).atRest → exec (.wtr s.cfg.scanReg s.cfg.scanSentinel)
      { scanChain s k with ca := BitVec.ofNat 4 k } = .next (scanChain s (k + 1)) ∧ (scanChain s (k + 1)).atRest := by
    intro k hk
    obtain ⟨u, hu, hr⟩ := run { scanChain s k with ca := BitVec.ofNat 4 k } hk
    simp only [scanChain, hu]
    exact ⟨trivial, hr⟩
  have all : ∀ k, (scanChain s k).atRest := by
    intro k
    induction k with
    | zero => exact h
    | succ k ih => exact (next k ih).2
  exact ⟨all k, (next k (all k)).1⟩

/-- The first candidate and the last may match, and there may be no match. -/
theorem witness_FindcaIsAscendingScanOfWtr :
    ((withRR 0 atRestA).atRest ∧ (withRR 0 atRestA).settled ∧
      (scanChain (withRR 0 atRestA) 1).resp = .byte atRestA.cfg.scanSentinel) ∧
    ((∀ j < 15, (scanChain (withRR 15 atRestA) (j + 1)).resp ≠ .byte atRestA.cfg.scanSentinel) ∧
      (scanChain (withRR 15 atRestA) 16).resp = .byte atRestA.cfg.scanSentinel) ∧
    (let s : State := { withRR 0 atRestA with cfg := { Config.a0 with scanReg := 1 } }
      ∀ k < 16, (scanChain s (k + 1)).resp ≠ .byte s.cfg.scanSentinel) := by decide +kernel

theorem witness_FindcaFindsReferenceResponder :
    let rr : Responder := { addr := 15 }
    (withRR 15 atRestA).atRest ∧ (withRR 15 atRestA).responder = some rr ∧ (withRR 15 atRestA).cfg.dataConn = 0xFF ∧
    rr.regs.wf = true ∧ rr.float ≠ Config.a0.scanSentinel ∧
    rr.kept Config.a0.scanReg Config.a0.scanSentinel = Config.a0.scanSentinel := by decide

theorem witness_FindcaBlindOnUnconnectedLine :
    let s : State := { atRestA with cfg := { Config.a0 with dataConn := 0xF7 } }
    s.atRest ∧ s.cfg.dataConn.getLsbD (3 : Fin 8) = false ∧ s.cfg.scanSentinel.getLsbD (3 : Fin 8) = true := by decide

theorem witness_BeginInitialises : State.reset.stop = .run ∧ (driving 7 (inMode 0b001#3 atRestA)).stop = .run := by decide

theorem witness_BeginIsIdempotent : ∃ t, exec .begin State.reset = .next t ∧ (t.stop == .run) = true :=
  exists_next (by decide)

theorem witness_ConfigurationNeverChanges : ∃ t, step (given 0x0000 State.reset) = .next t ∧ t.init = true :=
  exists_next (p := fun t => t.init) (by decide)

/-- Commands that complete, for the statements about every command's next state: OnlyBeginSetsInit,
OnlyModeCommandsMoveTheMode, OnlySetcaMovesTheChipAddress, InterruptibilityIsRestored, TransactionsAreSingleBit (both
variants), CriticalSectionsAreDisciplined and TransactionsEndAtRest. -/
theorem witness_wholeMachine :
    (∃ t, exec .begin State.reset = .next t ∧ t.init = true) ∧
    (∃ t, exec (.wtr 11 0x7A) (withRR 0 atRestA) = .next t ∧ (t.stop == .run) = true) ∧
    (∃ t, exec (.latch 11) (withRR 0 atRestB) = .next t ∧ (t.stop == .run) = true) ∧
    (∃ t, exec .findca (withRR 0 atRestA) = .next t ∧ (t.stop == .run) = true) :=
  ⟨exists_next (p := fun t => t.init) (by decide), exists_next (by decide), exists_next (by decide),
    exists_next (by decide +kernel)⟩

theorem witness_UnconnectedDataLines :
    let s : State := { withRR 0 atRestA with cfg := { Config.a0 with dataConn := 0x7F } }
    s.cfg.dataConn.getLsbD (7 : Fin 8) = false ∧ ∃ t, exec (.read 0) s = .next t ∧ (t.stop == .run) = true :=
  ⟨by decide, exists_next (by decide)⟩

theorem witness_EventCounts : (configValid atRestB.cfg = true ∧ atRestB.cfg.dataConn = 0xFF ∧ atRestB.dbusDir = .input ∧
      atRestB.atRest ∧ State.reset.cfg.resetConn = true ∧ State.reset.mode = none ∧ State.reset.dbusDir = .input ∧
      atRestA.cfg.resetConn = true ∧ atRestA.mode = some 0b010#3 ∧
      (driving 0x55 atRestA).atRest ∧ (driving 0x55 atRestA).dbusDir = .output) ∧
    (∃ t, exec .m000to001 (driving 0x55 (inMode 0b000#3 atRestA)) = .next t ∧ (t.stop == .run) = true) ∧
    (configValid tableConfigA = true ∧ tableConfigA.dataConn = 0xFF ∧
      ∃ t, exec (.setmode 0b000#3) { atRestA with cfg := tableConfigA } = .next t ∧ (t.stop == .run) = true) ∧
    (∃ t, exec (.busout 0xA5) (inMode 0b000#3 atRestA) = .next t ∧ (t.stop == .run) = true) ∧
    (∃ t, exec .busin (inMode 0b011#3 atRestA) = .next t ∧ (t.stop == .run) = true) ∧
    (∃ t, exec .findca (withRR 0 atRestA) = .next t ∧ (t.resp == .found 0x00) = true) ∧
    (∃ t, exec .findca (withRR 15 atRestB) = .next t ∧ (t.resp == .found 0xF0) = true) ∧
    (∃ t, exec .findca { withRR 0 atRestA with cfg := { Config.a0 with scanReg := 1 } } = .next t ∧
      (t.resp == .notFound) = true) :=
  ⟨by decide, exists_next (by decide), ⟨by decide, by decide, exists_next (by decide)⟩, exists_next (by decide),
    exists_next (by decide), exists_next (by decide +kernel), exists_next (by decide +kernel),
    exists_next (by decide +kernel)⟩

theorem witness_ControlPinsFollowTheMode : (withRR 15 atRestA).Inv ∧ (withRR 15 atRestA).init = true ∧
    ctlConn Config.a0 .bc2 = true ∧ Config.b0.variant = .b ∧ ({ Config.b0 with bc2Conn := true } : Config).bc2Conn = true :=
  ⟨atRest_inv.1, by decide⟩

theorem witness_ResponsePortEncoding : atRestA.stop = .run ∧ atRestA.resp = .none ∧
    ({ atRestA with stop := .refused .reservedOp } : State).stop ≠ .run := by decide

theorem witness_WriteReadRoundTrip :
    let rr : Responder := { addr := 0 }
    (withRR 0 atRestA).atRest ∧ (withRR 0 atRestA).responder = some rr ∧ rr.addr = (withRR 0 atRestA).ca ∧
    (withRR 0 atRestA).cfg.dataConn = 0xFF ∧ rr.regs.wf = true ∧ regWidth 15 = 8 ∧ regWidth 13 < 8 ∧ rr.mask = true := by
  decide

theorem witness_WtrEqualsWriteThenRead : (withRR 5 atRestA).atRest ∧ (withRR 5 atRestA).responder = some { addr := 5 } := by
  decide

theorem witness_NonStoringCommandsKeepRegisters :
    (∃ t, exec (.read 7) (withRR 0 atRestA) = .next t ∧ (t.stop == .run) = true) ∧
    (∃ t, exec .begin (withRR 0 atRestB) = .next t ∧ (t.stop == .run) = true) ∧ atRestB.cfg.resetConn = false :=
  ⟨exists_next (by decide), exists_next (by decide), by decide⟩

theorem witness_StoresTouchOneRegister :
    (∃ t, exec (.write 7 0x38) (withRR 0 atRestA) = .next t ∧ (t.stop == .run) = true) ∧
    (latched atRestA.cfg 0x07 { addr := 0 }).selected = true ∧ (latched atRestA.cfg 0x17 { addr := 0 }).selected = false ∧
    (∃ t, exec .m010to110 (driving 0x55 (withRR 0 atRestA)) = .next t ∧ (t.stop == .run) = true) ∧
    (∃ t, exec (.setmode 0b110#3) (driving 0x55 (withRR 0 atRestB)) = .next t ∧ (t.stop == .run) = true) :=
  ⟨exists_next (by decide), by decide, by decide, exists_next (by decide), exists_next (by decide)⟩

theorem witness_FindcaKeepsOtherRegisters : Memory.wf [] = true ∧
    (∀ k : Nibble, (7 : Nat) ≠ (latched atRestA.cfg (k ++ atRestA.cfg.scanReg) { addr := 0 }).laReg.toNat) ∧
    ∃ t, exec .findca (withRR 0 atRestA) = .next t ∧ (t.stop == .run) = true :=
  ⟨by decide, by decide, exists_next (by decide +kernel)⟩

theorem witness_PseudoInstructionsExpand :
    (given 0x5020 atRestA).port = (assemble (setcan 2)).map .command ∧
    (configValid atRestA.cfg = true ∧ atRestA.atRest ∧ atRestA.cfg.variant = .a ∧
      assemble (latcha 0x0B) = [0xA00B, 0x8010, 0x8001, 0x8008, 0x8002]) ∧
    (configValid atRestB.cfg = true ∧ atRestB.atRest ∧ atRestB.cfg.variant = .b ∧
      assemble (latchb 0x2B) = [0xA02B, 0x8017, 0x803A]) := by decide

/-- Clause by clause: a tried candidate that selects (the last one), no candidate that selects (line 7 without a pin
and floating high, R295), and D0 to D3 with pins. -/
theorem witness_FindcaLeavesTheSentinel :
    ((withRR 15 atRestA).atRest ∧ Memory.wf [] = true ∧
      (latched atRestA.cfg (15#4 ++ atRestA.cfg.scanReg) { addr := 15 }).selected = true ∧ (15 : Nibble) ≤ 15 ∧
      ∃ t, exec .findca (withRR 15 atRestA) = .next t ∧ (t.resp == .found (15#4 ++ 0#4)) = true) ∧
    (let s : State := { withRR 0 atRestA with cfg := { Config.a0 with dataConn := 0x7F } };
      s.atRest ∧ ∀ k : Nibble, (latched s.cfg (k ++ s.cfg.scanReg) { addr := 0 }).selected = false) ∧
    atRestA.cfg.dataConn &&& 0x0F = 0x0F :=
  ⟨⟨by decide, by decide, by decide, by decide, exists_next (by decide +kernel)⟩, by decide, by decide⟩

end Sys2Proof.Tests
end

section
/-! PROOFS. The statements of 10_state about every step and every command: what each keeps, from the one case split of
R258 and one frame lemma per field over the effects. -/

namespace Sys2Proof.Machine

/-! What a command and a step keep, from their three and four ways to answer. -/

/-- To show a fact of the state after a command, show it after a refusal, after a fault and after the effect (R258). -/
theorem exec_rule {P : State → Prop} {i : Instr} {s t : State} (h : exec i s = .next t)
    (refused : ∀ c, P (refuse c s)) (faulted : ∀ c, P (raiseFault c s))
    (completed : refusalOf i s = none → faultOf i s = none → P (effectOf i s)) : P t := by
  obtain ⟨-, ⟨c, -, rfl⟩ | ⟨-, c, -, rfl⟩ | ⟨hr, hf, rfl⟩⟩ := exec_next h
  · exact refused c
  · exact faulted c
  · exact completed hr hf

theorem exec_cfg {i : Instr} {s t : State} (h : exec i s = .next t) : t.cfg = s.cfg :=
  exec_rule (P := fun t => t.cfg = s.cfg) h (fun _ => rfl) (fun _ => rfl) fun _ _ => effect_cfg i s

theorem exec_hostIe {i : Instr} {s t : State} (h : exec i s = .next t) : t.hostIe = s.hostIe :=
  exec_rule (P := fun t => t.hostIe = s.hostIe) h (fun _ => rfl) (fun _ => rfl) fun _ _ => effect_hostIe i s

/-! The frame of the effects: `init`, `mode`, and the fields that are settled between commands. -/

theorem effect_upc (i : Instr) (s : State) : (effectOf i s).upc = 0 := by
  obtain ⟨-, -, -, -, hu, -⟩ := effect_keeps i s
  exact hu

@[simp] theorem coarseChange_init (m : ModeCode) (s : State) : (coarseChange m s).init = s.init := by
  by_cases h : s.mode = some m <;> simp [coarseChange, h]

@[simp] theorem coarseChange_crit (m : ModeCode) (s : State) : (coarseChange m s).crit = s.crit := by
  by_cases h : s.mode = some m <;> simp [coarseChange, h]

@[simp] theorem coarseChange_cand (m : ModeCode) (s : State) : (coarseChange m s).cand = s.cand := by
  by_cases h : s.mode = some m <;> simp [coarseChange, h]

/-- Only BEGIN writes `init` (R25). -/
theorem effect_init {i : Instr} (hi : i ≠ .begin) (s : State) : (effectOf i s).init = s.init := by
  cases i <;> simp only [effectOf]
  case begin => exact absurd rfl hi
  case findca => obtain ⟨_, _, _, _, h, -⟩ := discover_frame s; rw [h]
  all_goals simp [latchSeq_eq, writeSeq_eq, respondRead, readSeq_state, respondWtr, wtrBody_state, busOut_eq, busIn_eq,
    respondSampled, sampleByte_state]

theorem effect_begin_init (s : State) : (effectOf .begin s).init = true := by simp [effectOf, initialise_eq]

/-- Every effect ends with no critical section open and both counters at 0 (R31, R32, R33). -/
theorem effect_settled (i : Instr) {s : State} (h : s.settled) : (effectOf i s).settled := by
  obtain ⟨hc, -, hk⟩ := h
  suffices (effectOf i s).crit = false ∧ (effectOf i s).cand = 0 by
    obtain ⟨hc', hk'⟩ := this
    exact ⟨hc', effect_upc i s, hk'⟩
  cases i <;> simp only [effectOf]
  case findca => obtain ⟨_, _, _, _, h, -⟩ := discover_frame s; rw [h]; exact ⟨rfl, rfl⟩
  all_goals simp [initialise_eq, latchSeq_eq, writeSeq_eq, respondRead, readSeq_state, respondWtr, wtrBody_state,
    busOut_eq, busIn_eq, respondSampled, sampleByte_state, hc, hk]

/-- The commands that TxCheck guards (R180): the four transactions and FINDCA. -/
def startsAtRest : Instr → Bool
  | .latch _ | .write _ _ | .read _ | .wtr _ _ | .findca => true
  | _ => false

theorem faultOf_startsAtRest {i : Instr} (h : startsAtRest i = true) : faultOf i = txCheck := by
  cases i
  case latch | write | read | wtr | findca => rfl
  all_goals cases h

/-- They end at REST, with a latched value behind a driven bus (R206, R226). -/
theorem effect_endsAtRest {i : Instr} (h : startsAtRest i = true) (s : State) :
    (effectOf i s).mode = some rest ∧ ((effectOf i s).dbusDir = .output → (effectOf i s).dbusOut ≠ none) := by
  cases i
  case latch => simp [effectOf, latchSeq_eq]
  case write => simp [effectOf, writeSeq_eq]
  case read => simp [effectOf, respondRead, readSeq_state]
  case wtr => simp [effectOf, respondWtr, wtrBody_state]
  case findca => obtain ⟨_, _, _, _, h, -⟩ := discover_frame s; simp [effectOf, h]
  all_goals cases h

/-- They start where they end (R180, R206). -/
theorem transaction_mode {i : Instr} {s : State} (hf : faultOf i s = none) (h : startsAtRest i = true) :
    (effectOf i s).mode = s.mode := by
  rw [faultOf_startsAtRest h] at hf
  obtain ⟨-, hm⟩ := txCheck_none hf
  obtain ⟨hm', -⟩ := effect_endsAtRest h s
  exact hm'.trans hm.symm

/-! The mode and the bus phase (R26, R168): in a begun block they are legal exactly where the mode is a code of the
variant that PhaseCheck lets the block be in. -/

/-- The two parts of the invariant that speak of the bus: mode and phase. -/
abbrev State.busLegal (s : State) : Prop := s.modeLegal ∧ s.phaseLegal

theorem busLegal_of_phaseCheck {s : State} {m : ModeCode} (hi : s.init = true) (hm : s.mode = some m)
    (hn : named s.cfg.variant m = true) (hp : phaseCheck m s = none)
    (ho : s.dbusDir = .output → s.dbusOut ≠ none) : s.busLegal := by
  obtain ⟨hread, hwrite⟩ := phaseCheck_none hp
  refine ⟨⟨fun h => ?_, fun _ => ⟨m, hm, hn⟩⟩, fun m' hm' => ?_, fun m' hm' => ?_, ho⟩
  · rw [hi] at h; cases h
  · obtain rfl : m = m' := Option.some.inj (hm.symm.trans hm')
    exact hread
  · obtain rfl : m = m' := Option.some.inj (hm.symm.trans hm')
    exact hwrite

theorem named_rest (v : Variant) : named v rest = true := by cases v <;> rfl

theorem phaseCheck_rest (s : State) : phaseCheck rest s = none :=
  phaseCheck_passes (fun h => absurd h (by decide)) fun h => absurd h (by cases s.cfg.variant <;> decide)

/-- At REST any bus direction is legal. -/
theorem busLegal_atRest {s : State} (hi : s.init = true) (hm : s.mode = some rest)
    (ho : s.dbusDir = .output → s.dbusOut ≠ none) : s.busLegal :=
  busLegal_of_phaseCheck hi hm (named_rest _) (phaseCheck_rest s) ho

/-- A begun block is in one of the variant's codes (R26). -/
theorem State.busLegal.mode {s : State} (h : s.busLegal) (hi : s.init = true) :
    ∃ m, s.mode = some m ∧ named s.cfg.variant m = true := by
  obtain ⟨⟨-, hbegun⟩, -⟩ := h
  exact hbegun hi

/-- A driven bus has a latched value (R28). -/
theorem State.busLegal.driven {s : State} (h : s.busLegal) : s.dbusDir = .output → s.dbusOut ≠ none := by
  obtain ⟨-, -, -, hdriven⟩ := h
  exact hdriven

/-- A transaction or a discovery ends in a legal bus (R206, R226). -/
theorem transaction_busLegal {i : Instr} {s : State} (hf : faultOf i s = none) (h : startsAtRest i = true) :
    (effectOf i s).busLegal := by
  rw [faultOf_startsAtRest h] at hf
  obtain ⟨hi, -⟩ := txCheck_none hf
  obtain ⟨hm, ho⟩ := effect_endsAtRest h s
  exact busLegal_atRest ((effect_init (by rintro rfl; cases h) s).trans hi) hm ho

/-- An edge that XFER takes keeps the bus legal (R130, R132). -/
theorem edge_busLegal {src dst : ModeCode} {s : State} (h : s.busLegal) (hr : xferRefusal src dst s = none)
    (hf : afterBegun (xferFault src dst) s = none) : (respond .none (edgeStep src dst s)).busLegal := by
  obtain ⟨hi, hx⟩ := afterBegun_none hf
  have hp : phaseCheck dst s = none := by
    unfold xferFault at hx
    split at hx
    · cases hx
    · exact hx
  have he : hasEdge s.cfg.variant src dst = true := by simpa [xferRefusal] using hr
  exact busLegal_of_phaseCheck (s := respond .none (edgeStep src dst s)) hi rfl (hasEdge_named he) hp h.driven

/-- So does SETMODE (R145). -/
theorem coarseChange_busLegal {m : ModeCode} {s : State} (h : s.busLegal) (hr : setmodeRefusal m s = none)
    (hf : afterBegun (setmodeFault m) s = none) : (coarseChange m s).busLegal := by
  by_cases hm : s.mode = some m
  · rwa [coarseChange_same hm]
  · obtain ⟨hi, hx⟩ := afterBegun_none hf
    have hp : phaseCheck m s = none := by simpa [setmodeFault, hm] using hx
    have hn : named s.cfg.variant m = true := by
      unfold setmodeRefusal at hr
      split at hr
      · cases hr
      · simpa using hr
    rw [coarseChange_eq hm]
    exact busLegal_of_phaseCheck hi rfl hn hp h.driven

/-- BUSOUT's checks shut out READ_DATA, the mode in which the bus must be IN (R161). -/
theorem busOut_busLegal {s : State} (d : Byte) (h : s.busLegal) (hf : afterBegun busoutFault s = none) :
    (busOut d s).busLegal := by
  obtain ⟨hi, hx⟩ := afterBegun_none hf
  obtain ⟨m, hm, hn⟩ := h.mode hi
  have hread : isRead m = false := by
    simp only [busoutFault, modeIs, hm] at hx
    split at hx
    · cases hx
    · simp_all
  rw [busOut_eq]
  exact busLegal_of_phaseCheck hi hm hn (by simp [phaseCheck, hread]) (by simp)

/-- BUSIN's checks shut out LATCH_ADDR and WRITE_DATA, the modes in which the bus must be OUT (R164). -/
theorem busIn_busLegal {s : State} (h : s.busLegal) (hf : afterBegun businFault s = none) : (busIn s).busLegal := by
  obtain ⟨hi, hx⟩ := afterBegun_none hf
  obtain ⟨m, hm, hn⟩ := h.mode hi
  have hpulse : ¬ (isLatch s.cfg.variant m = true ∨ isWrite m = true) := by
    simp only [businFault, modeIs, hm] at hx
    split at hx
    · cases hx
    · assumption
  rw [busIn_eq]
  exact busLegal_of_phaseCheck hi hm hn (by simp [phaseCheck, hpulse]) (by simp)

/-- A command that passes its checks keeps the bus legal. -/
theorem effect_busLegal {i : Instr} {s : State} (h : s.busLegal) (hr : refusalOf i s = none)
    (hf : faultOf i s = none) : (effectOf i s).busLegal := by
  cases i
  case begin =>
    simp only [effectOf, initialise_eq]
    exact busLegal_atRest rfl rfl (by simp)
  case latch | write | read | wtr | findca => exact transaction_busLegal hf rfl
  case setca | getca => exact h
  case setmode m => exact coarseChange_busLegal h hr hf
  case busout d => exact busOut_busLegal d h hf
  case busin => exact busIn_busLegal h hf
  case bussample => simp only [effectOf, respondSampled, sampleByte_state]; exact h
  all_goals exact edge_busLegal h hr hf

theorem effect_memoryLegal (i : Instr) {s : State} (h : s.memoryLegal) : (effectOf i s).memoryLegal :=
  effect_has memory_kept i h

/-! The invariant. -/

/-- A command that passes its checks keeps the invariant. -/
theorem effect_inv {i : Instr} {s : State} (h : s.Inv) (hr : refusalOf i s = none) (hf : faultOf i s = none) :
    (effectOf i s).Inv := by
  obtain ⟨hvalid, hsettled, hmode, hphase, hmemory⟩ := h
  obtain ⟨hmode', hphase'⟩ := effect_busLegal ⟨hmode, hphase⟩ hr hf
  exact ⟨(effect_cfg i s).symm ▸ hvalid, effect_settled i hsettled, hmode', hphase', effect_memoryLegal i hmemory⟩

/-- Every command keeps the invariant: a stop writes no field it speaks of. -/
theorem exec_inv {i : Instr} {s t : State} (hs : s.Inv) (h : exec i s = .next t) : t.Inv :=
  exec_rule h (fun _ => hs) (fun _ => hs) (effect_inv hs)

/-- Settles O4: the host's inputs and a refused word write no field the invariant speaks of, and every command keeps
it. -/
theorem stepKeepsInvariant : Obligations.StepKeepsInvariant := by
  intro s t hs h
  obtain ⟨-, rfl | ⟨b, more, rfl⟩ | ⟨c, more, rfl⟩ | ⟨i, more, h⟩⟩ := step_next h
  · exact hs
  · exact hs
  · exact hs
  · exact exec_inv (s := consume more s) hs h

/-! What no step, or no command but those named, changes. -/

/-- Settles O35: the host's inputs and a refused word leave it as it is, and so does every command. -/
theorem configurationNeverChanges : Obligations.ConfigurationNeverChanges := by
  intro s t h
  obtain ⟨-, rfl | ⟨b, more, rfl⟩ | ⟨c, more, rfl⟩ | ⟨i, more, h⟩⟩ := step_next h
  · rfl
  · rfl
  · rfl
  · exact exec_cfg (s := consume more s) h

theorem exec_init {i : Instr} {s t : State} (hi : i ≠ .begin) (h : exec i s = .next t) : t.init = s.init :=
  exec_rule (P := fun t => t.init = s.init) h (fun _ => rfl) (fun _ => rfl) fun _ _ => effect_init hi s

/-- BEGIN has no check that could stop it (R241). -/
theorem exec_begin_init {s t : State} (h : exec .begin s = .next t) : t.init = true := by
  obtain ⟨-, ⟨_, hr, -⟩ | ⟨-, _, hf, -⟩ | ⟨-, -, rfl⟩⟩ := exec_next h
  · cases hr
  · cases hf
  · exact effect_begin_init s

/-- Settles O36: BEGIN cannot stop and sets `init`; no other command writes it. -/
theorem onlyBeginSetsInit : Obligations.OnlyBeginSetsInit := by
  intro i s t h
  by_cases hi : i = .begin
  · subst hi
    exact ⟨fun _ => exec_begin_init h, fun hne => absurd rfl hne, fun _ => exec_begin_init h⟩
  · have hkeep := exec_init hi h
    exact ⟨hkeep.trans, fun _ => hkeep, fun he => absurd he hi⟩

/-- Settles O37: the commands TxCheck guards start and end at REST, and the others do not touch the mode. -/
theorem onlyModeCommandsMoveTheMode : Obligations.OnlyModeCommandsMoveTheMode := by
  intro i s t h hedge hset
  refine exec_rule (P := fun t => t.mode = s.mode) h (fun _ => rfl) (fun _ => rfl) fun _ hf => ?_
  cases i
  case latch | write | read | wtr | findca => exact transaction_mode hf rfl
  case setca | getca => rfl
  case busout => simp [effectOf, busOut_eq]
  case busin => simp [effectOf, busIn_eq]
  case bussample => simp [effectOf, respondSampled, sampleByte_state]
  case setmode m _ => exact absurd rfl (hset m)
  all_goals simp at hedge

/-- Settles O39: no effect ends with another `host_ie`, and a stop does not write it. -/
theorem interruptibilityIsRestored : Obligations.InterruptibilityIsRestored := fun _ _ _ h => exec_hostIe h

/-! Construction, the pins and the response port. -/

/-- A valid configuration is constructed: the reset state with this configuration, host and bus (R22, R48). -/
theorem construct_of_valid {cfg : Config} (h : configValid cfg = true) (ie : Bool) (bus : Option Responder) :
    construct cfg ie bus = .ok { State.reset with cfg := cfg, hostIe := ie, responder := bus } := by
  obtain ⟨hl, hc⟩ : linesConnected cfg = true ∧ coarseWhereNeeded cfg = true := by simpa [configValid] using h
  simp [construct, configError, hl, hc]

theorem exec_begin {s : State} (hs : s.stop = .run) : exec .begin s = .next (respond .none (initialise s)) :=
  exec_completes hs rfl rfl

theorem ctlPin_unbegun {l : Line} {s : State} (hc : ctlConn s.cfg l = true) (hi : s.init = false) :
    ctlPin l s = .undriven := by simp [ctlPin, hc, hi]

/-- R42: once begun, a connected control line is driven at its level in the mode. -/
theorem ctlPin_begun {l : Line} {s : State} {m : ModeCode} (hc : ctlConn s.cfg l = true) (hi : s.init = true)
    (hm : s.mode = some m) : ctlPin l s = .driven (levelOf m l) := by simp [ctlPin, hc, hi, hm]

/-- R43: a connected data line is high impedance while the bus is IN. -/
theorem dataPin_input {i : Fin 8} {s : State} (hc : lineConnected s.cfg i = true) (hd : s.dbusDir = .input) :
    dataPin i s = .highZ := by simp [dataPin, hc, hd]

/-- Settles O2: construction gives the reset state's fields, BEGIN completes on it, and the pins follow from the
fields. -/
theorem constructionAndFirstBegin : Obligations.ConstructionAndFirstBegin := by
  intro cfg ie bus hvalid
  refine ⟨_, _, construct_of_valid hvalid ie bus, exec_begin rfl, ?_, fun l hl => ctlPin_unbegun hl rfl,
    fun i hi => dataPin_input hi rfl, ?_, ?_, ?_⟩
  · simp [State.reset]
  · simp [initialise_eq, State.reset]
  · exact fun l hl => ctlPin_begun (by simpa [initialise_eq] using hl) (by simp [initialise_eq])
      (by simp [initialise_eq, rest])
  · exact fun i hi => dataPin_input (by simpa [initialise_eq] using hi) (by simp [initialise_eq])

/-- R131: BC2 is high in every mode of Variant B. -/
theorem levelOf_bc2_variantB {m : ModeCode} (h : named .b m = true) : levelOf m .bc2 = true := by
  revert m; decide

/-- Settles O45: the invariant gives the mode, and Variant B has no code with BC2 low. -/
theorem controlPinsFollowTheMode : Obligations.ControlPinsFollowTheMode := by
  intro s hs hi
  obtain ⟨-, -, hmode, hphase, -⟩ := hs
  obtain ⟨m, hm, hn⟩ := State.busLegal.mode ⟨hmode, hphase⟩ hi
  refine ⟨⟨m, hm, fun l hl => ctlPin_begun hl hi hm⟩, fun hv hc => ?_⟩
  rw [hv] at hn
  rw [ctlPin_begun (l := .bc2) hc hi hm, levelOf_bc2_variantB hn]

theorem responsePort_running {s : State} (h : s.stop = .run) :
    s.responsePort = some (s.resp.kind, s.resp.data) := by simp [State.responsePort, h]

theorem responsePort_stopped {s : State} (h : s.stop ≠ .run) : s.responsePort = none := by
  unfold State.responsePort
  split
  · contradiction
  · rfl
  · rfl

/-- Settles O46: a running block shows kind and data of its response, a stopped one nothing. -/
theorem responsePortEncoding : Obligations.ResponsePortEncoding := by
  intro s
  refine ⟨fun hs => ?_, responsePort_stopped⟩
  rw [responsePort_running hs]
  refine ⟨fun h => ?_, fun v h => ?_, fun v h => ?_, fun h => ?_⟩ <;> rw [h] <;> rfl

end Sys2Proof.Machine
end

section
/-! PROOFS. The statements of 20_memory about the reference responder: what a command that stores nothing leaves of it,
and what a command that stores one byte makes of it. -/

namespace Sys2Proof.Machine

/-- Settles O47: the map has 16 rows, read one by one. -/
theorem registerMasks : Obligations.RegisterMasks := by
  unfold Obligations.RegisterMasks
  decide

/-! Commands that store nothing (R78 to R82). -/

/-- The commands that can write the register file: those that enter WRITE_DATA (R79) and a BEGIN that pulses the reset
line (R81). -/
def mayStore (cfg : Config) : Instr → Bool
  | .write _ _ | .wtr _ _ | .findca | .m010to110 => true
  | .setmode m => isWrite m
  | .begin => cfg.resetConn
  | _ => false

/-- The commands that enter LATCH_ADDR (R78), but for those that then store. -/
def mayLatch (v : Variant) : Instr → Bool
  | .latch _ | .read _ | .m000to001 | .m010to111 => true
  | .setmode m => isLatch v m
  | _ => false

/-- Entering a mode other than WRITE_DATA at most latches. -/
theorem observe_mode_regs {m : ModeCode} (hw : isWrite m = false) (v : Variant) (d l : Byte) (src : Option ModeCode)
    (rr : Responder) : (Responder.observe v d l (.mode src m) rr).regs = rr.regs := by
  cases h : isLatch v m
  · rw [observe_quiet d l src h hw]; rfl
  · rw [observe_latch d l src h]; rfl

theorem edgeStep_regs {dst : ModeCode} (hw : isWrite dst = false) (src : ModeCode) (s : State) :
    (edgeStep src dst s).responder.map Responder.regs = s.responder.map Responder.regs := by
  simp [edgeStep_responder, Function.comp_def, observe_mode_regs hw]

theorem coarseChange_regs {m : ModeCode} (hw : isWrite m = false) (s : State) :
    (coarseChange m s).responder.map Responder.regs = s.responder.map Responder.regs := by
  by_cases hm : s.mode = some m
  · rw [coarseChange_same hm]
  · simp [coarseChange_eq hm, Function.comp_def, observe_mode_regs hw]

/-- SETMODE into an inactive or read mode does nothing to the responder (R82). -/
theorem coarseChange_responder_quiet {m : ModeCode} {s : State} (h : isLatch s.cfg.variant m = false)
    (hw : isWrite m = false) : (coarseChange m s).responder = s.responder := by
  by_cases hm : s.mode = some m
  · rw [coarseChange_same hm]
  · simp [coarseChange_eq hm, observe_quiet _ _ _ h hw]

theorem isLatch_inactive (v : Variant) : isLatch v 0b000#3 = false := by cases v <;> rfl

/-- A command that neither latches nor stores leaves the whole responder. -/
theorem effect_keepsResponder {i : Instr} {s : State} (hs : mayStore s.cfg i = false)
    (hl : mayLatch s.cfg.variant i = false) : (effectOf i s).responder = s.responder := by
  cases i
  case latch | read | m000to001 | m010to111 => cases hl
  case write | wtr | findca | m010to110 => cases hs
  case begin =>
    have hc : s.cfg.resetConn = false := hs
    simp [effectOf, initialise_eq, resetResponder, hc]
  case setmode m => exact coarseChange_responder_quiet hl hs
  case setca | getca => rfl
  case busout => simp [effectOf, busOut_eq]
  case busin => simp [effectOf, busIn_eq]
  case bussample => simp [effectOf, respondSampled, sampleByte_state]
  case m010to000 | m001to000 => exact edgeStep_responder_quiet (isLatch_inactive _) rfl
  case m000to010 | m110to010 | m011to010 | m111to010 => exact edgeStep_rest_responder _ s
  case m010to011 => exact edgeStep_read_responder _ s

/-- A command that stores nothing leaves the register file: it latches, or does nothing to the responder. -/
theorem effect_keepsRegs {i : Instr} {s : State} (hs : mayStore s.cfg i = false) :
    (effectOf i s).responder.map Responder.regs = s.responder.map Responder.regs := by
  cases hl : mayLatch s.cfg.variant i
  · rw [effect_keepsResponder hs hl]
  · cases i
    case latch => simp [effectOf, latchSeq_eq, Function.comp_def, latched]
    case read => simp [effectOf, respondRead, readSeq_state, latchSeq_eq, Function.comp_def, latched]
    case m000to001 | m010to111 => exact edgeStep_regs rfl _ s
    case setmode m => exact coarseChange_regs hs s
    all_goals cases hl

/-- Settles O50: a stop does not touch the responder, and the effect of a command that stores nothing at most
latches. -/
theorem nonStoringCommandsKeepRegisters : Obligations.NonStoringCommandsKeepRegisters := by
  intro i s t h hstore hfindca hedge hset hbegin
  have hs : mayStore s.cfg i = false := by
    cases i
    case write r d => exact absurd rfl (hstore r d).1
    case wtr r d => exact absurd rfl (hstore r d).2
    case findca | m010to110 => contradiction
    case begin => exact hbegin rfl
    case setmode m => simpa [mayStore, isWrite, writeData] using hset
    all_goals rfl
  have hregs : t.responder.map Responder.regs = s.responder.map Responder.regs :=
    exec_rule (P := fun t => t.responder.map Responder.regs = s.responder.map Responder.regs) h (fun _ => rfl)
      (fun _ => rfl) fun _ _ => effect_keepsRegs hs
  refine ⟨fun rr hr => ?_, fun hlatch hedgeA hedgeB hsetLatch => ?_⟩
  · rw [hr] at hregs
    obtain ⟨rr', hr', he⟩ := Option.map_eq_some_iff.1 hregs
    exact ⟨rr', hr', fun x => by rw [he]⟩
  · have hl : mayLatch s.cfg.variant i = false := by
      cases i
      case latch r => exact absurd rfl (hlatch r).1
      case read r => exact absurd rfl (hlatch r).2
      case m000to001 | m010to111 => contradiction
      case setmode m => simpa [mayLatch, isLatch] using hsetLatch
      all_goals rfl
    exact exec_rule (P := fun t => t.responder = s.responder) h (fun _ => rfl) (fun _ => rfl) fun _ _ =>
      effect_keepsResponder hs hl

/-! Commands that store one byte (R79). -/

/-- A command that ends without a stop has passed its checks and taken its effect. -/
theorem exec_running {i : Instr} {s t : State} (h : exec i s = .next t) (ht : t.stop = .run) :
    faultOf i s = none ∧ t = effectOf i s := by
  obtain ⟨-, ⟨_, -, rfl⟩ | ⟨-, _, -, rfl⟩ | ⟨-, hf, rfl⟩⟩ := exec_next h
  · cases ht
  · cases ht
  · exact ⟨hf, rfl⟩

/-- What a store leaves alone, and what it leaves at the latched register where that is selected. -/
theorem Responder.store_frame (a : Responder) (b : Byte) (w : a.regs.wf = true) :
    (∀ x, x ≠ a.laReg.toNat ∨ a.selected = false → (a.store b).regs.read x = a.regs.read x) ∧
    (a.selected = true → (a.store b).regs.read a.laReg.toNat = a.kept a.laReg b) := by
  refine ⟨fun x hx => ?_, fun ha => ?_⟩
  · rw [Responder.store_read _ _ w, if_neg]
    rintro ⟨ha, rfl⟩
    simp [ha] at hx
  · rw [Responder.store_read _ _ w, if_pos ⟨ha, rfl⟩]

/-- WRITE and WTR latch their own address, then store (R195, R201). -/
theorem write_responder {i : Instr} {r : Nibble} {d : Byte} (hi : i = .write r d ∨ i = .wtr r d) (s : State) :
    (effectOf i s).responder = s.responder.map fun rr => stored s.cfg d (latched s.cfg (s.ca ++ r) rr) := by
  obtain rfl | rfl := hi
  · simp [effectOf, writeSeq_eq, composite_eq]
  · simp [effectOf, respondWtr, wtrBody_state, wtrResponder, composite_eq]

/-- Where PhaseCheck lets the block enter WRITE_DATA, the responder stores the latched byte (R79, R132). -/
theorem observe_writeEntry {s : State} {d : Byte} (hp : phaseCheck 0b110#3 s = none) (ho : s.dbusOut = some d)
    (src : Option ModeCode) :
    Responder.observe s.cfg.variant (drivenLines s) (latchLevel s) (.mode src 0b110#3) = stored s.cfg d := by
  obtain ⟨-, hd⟩ := phaseCheck_none hp
  rw [observe_write _ _ _ (isLatch_writeData _) rfl, drivenLines_output (hd (.inr rfl)), latchLevel_some ho]
  rfl

theorem xferFault_none {src dst : ModeCode} {s : State} (h : xferFault src dst s = none) :
    phaseCheck dst s = none := by
  unfold xferFault at h
  split at h
  · cases h
  · exact h

theorem setmodeFault_none {m : ModeCode} {s : State} (hm : s.mode ≠ some m) (h : setmodeFault m s = none) :
    phaseCheck m s = none := by
  rwa [setmodeFault, if_neg hm] at h

/-- M010TO110, and SETMODE 110 from another mode, store the latched byte at the address latched before. -/
theorem writeEntry_responder {i : Instr} {s : State} {d : Byte} (hi : i = .m010to110 ∨ i = .setmode 0b110#3)
    (hm : s.mode ≠ some 0b110#3) (ho : s.dbusOut = some d) (hf : faultOf i s = none) :
    (effectOf i s).responder = s.responder.map (stored s.cfg d) := by
  obtain rfl | rfl := hi <;> obtain ⟨-, hf⟩ := afterBegun_none hf
  · simp only [effectOf, respond_responder, edgeStep_responder, observe_writeEntry (xferFault_none hf) ho]
  · simp only [effectOf, respond_responder, coarseChange_eq hm, observe_writeEntry (setmodeFault_none hm hf) ho]

/-- Settles O51: each of the four makes one store, at the address of its own latch or of the latch before it. -/
theorem storesTouchOneRegister : Obligations.StoresTouchOneRegister := by
  intro s t rr hr w
  refine ⟨fun r d h ht => ?_, fun d hm ho h ht => ?_⟩
  · obtain ⟨i, hi, h⟩ : ∃ i, (i = .write r d ∨ i = .wtr r d) ∧ exec i s = .next t := by simpa using h
    obtain ⟨-, rfl⟩ := exec_running h ht
    exact ⟨_, by rw [write_responder hi, hr]; rfl, Responder.store_frame (latched s.cfg (s.ca ++ r) rr) _ w⟩
  · obtain ⟨i, hi, h⟩ : ∃ i, (i = .m010to110 ∨ i = .setmode 0b110#3) ∧ exec i s = .next t := by simpa using h
    obtain ⟨hf, rfl⟩ := exec_running h ht
    exact ⟨_, by rw [writeEntry_responder hi hm ho hf, hr]; rfl, Responder.store_frame rr _ w⟩

end Sys2Proof.Machine
end

section
/-! PROOFS. The statements of 30_encoding: the decoder reads every well-formed command from its word and accepts no
other word, its checks in R106's order, the edge tables, and what the pseudo-instructions stand for. -/

namespace Sys2Proof.Machine

/-! The edge tables (R94 to R96). -/

/-- In each table an edge is determined by its pair, so that the search finds exactly the table's rows. -/
theorem findEdge_eq_some {v : Variant} {src dst : ModeCode} {e : Edge} :
    findEdge v src dst = some e ↔ e ∈ edges v ∧ e.src = src ∧ e.dst = dst := by
  constructor
  · intro h
    exact ⟨List.mem_of_find?_eq_some h, by simpa using List.find?_some h⟩
  · rintro ⟨he, rfl, rfl⟩
    cases v <;> revert e <;> decide

theorem decodeXfer_ok {cfg : Config} {src dst : ModeCode} {i : Instr} :
    decodeXfer cfg src dst = .ok i ↔ ⟨src, dst, i⟩ ∈ edges cfg.variant := by
  have hcmd : decodeXfer cfg src dst = .ok i ↔ ∃ e, findEdge cfg.variant src dst = some e ∧ e.cmd = i := by
    unfold decodeXfer
    cases findEdge cfg.variant src dst <;> simp
  simp only [hcmd, findEdge_eq_some]
  constructor
  · rintro ⟨e, ⟨he, rfl, rfl⟩, rfl⟩
    exact he
  · exact fun h => ⟨_, ⟨h, rfl, rfl⟩, rfl⟩

theorem decodeXfer_noSuchEdge {cfg : Config} {src dst : ModeCode} (h : hasEdge cfg.variant src dst = false) :
    decodeXfer cfg src dst = .error .noSuchEdge := by
  have hnone : findEdge cfg.variant src dst = none := by simpa [hasEdge] using h
  rw [decodeXfer, hnone]

theorem decodeXfer_of_hasEdge {cfg : Config} {src dst : ModeCode} (h : hasEdge cfg.variant src dst = true) :
    ∃ i, decodeXfer cfg src dst = .ok i := by
  obtain ⟨e, he⟩ := Option.isSome_iff_exists.1 h
  exact ⟨e.cmd, by rw [decodeXfer, he]⟩

/-- A row of the variant's table: its command exists there and has the row's XFER word (R111). -/
theorem edge_wellFormed {cfg : Config} {e : Edge} (h : e ∈ edges cfg.variant) :
    e.cmd.wellFormed cfg = true ∧ encode e.cmd = packEdge e.src e.dst := by
  cases hv : cfg.variant <;> rw [hv] at h <;> fin_cases h <;> simp [Instr.wellFormed, encode, hv]

/-- A pair is in the table of the variant exactly where the search finds it. -/
theorem mem_edgePairs {v : Variant} {src dst : ModeCode} :
    (src, dst) ∈ (edges v).map (fun e => (e.src, e.dst)) ↔ hasEdge v src dst = true := by
  simp only [List.mem_map, Prod.mk.injEq, hasEdge, Option.isSome_iff_exists, findEdge_eq_some]

/-- The codes of a variant, one by one (R90 to R92). -/
theorem named_iff {v : Variant} {m : ModeCode} :
    named v m = true ↔ m ∈ inactiveModes v ++ [latchAddr v, readData, writeData] := by
  simp [named, isInactive, isLatch, isRead, isWrite, or_assoc]

/-- An edge writes as many lines as its codes differ in (R98). -/
theorem length_lines (src dst : ModeCode) : (lines src dst).length = hd src dst := by simp [lines, hd]

/-- Settles O16: the lines written are counted by `hd`, and both tables are short. -/
theorem variantAEdgesAreSingleBit : Obligations.VariantAEdgesAreSingleBit := by
  unfold Obligations.VariantAEdgesAreSingleBit
  simp only [length_lines, and_self]
  decide

/-! What the decoder does on each of R106's branches. -/

theorem decode_reservedOp {cfg : Config} {w : Word} (h : 13 ≤ opField w) : decode cfg w = .error .reservedOp :=
  if_pos h

theorem decode_nonzeroMbz {cfg : Config} {w : Word} (ho : ¬ 13 ≤ opField w) (h : w &&& mbzMask (opField w) ≠ 0) :
    decode cfg w = .error .nonzeroMbz := by rw [decode, if_neg ho, if_pos h]

theorem decode_eq_decodeOp {cfg : Config} {w : Word} (ho : ¬ 13 ≤ opField w)
    (h : w &&& mbzMask (opField w) = 0) : decode cfg w = decodeOp cfg w (opField w) := by
  rw [decode, if_neg ho, if_neg (not_not.2 h)]

/-- A word the decoder accepts has passed the first two checks. -/
theorem decode_ok {cfg : Config} {w : Word} {i : Instr} (h : decode cfg w = .ok i) :
    w &&& mbzMask (opField w) = 0 ∧ decodeOp cfg w (opField w) = .ok i := by
  by_cases ho : 13 ≤ opField w
  · rw [decode_reservedOp ho] at h; cases h
  by_cases hm : w &&& mbzMask (opField w) = 0
  · rw [decode_eq_decodeOp ho hm] at h; exact ⟨hm, h⟩
  · rw [decode_nonzeroMbz ho hm] at h; cases h

theorem decodeSetmode_unavailable {cfg : Config} (h : cfg.coarseEdgesOk = false) (m : ModeCode) :
    decodeSetmode cfg m = .error .setmodeUnavailable := if_pos h

theorem decodeSetmode_notAMode {cfg : Config} {m : ModeCode} (hc : cfg.coarseEdgesOk = true)
    (hm : named cfg.variant m = false) : decodeSetmode cfg m = .error .notAMode := by
  simp [decodeSetmode, hc, hm]

theorem decodeSetmode_ok {cfg : Config} {m : ModeCode} {i : Instr} :
    decodeSetmode cfg m = .ok i ↔ i = .setmode m ∧ i.wellFormed cfg = true := by
  unfold decodeSetmode
  split_ifs with hc hn
  · refine ⟨nofun, ?_⟩
    rintro ⟨rfl, hw⟩
    simp [Instr.wellFormed, hc] at hw
  · constructor
    · rintro ⟨⟩
      simpa [Instr.wellFormed, hn] using hc
    · rintro ⟨rfl, -⟩
      rfl
  · refine ⟨nofun, ?_⟩
    rintro ⟨rfl, hw⟩
    simp [Instr.wellFormed, hn] at hw

/-! From a command to its word and back. -/

/-- The word of every command is in the opcode map, with zero must-be-zero bits (R101, R103). -/
theorem encode_shape (i : Instr) : Laws.Shape.Statement i := by
  cases i
  case begin => exact Laws.Shape.begin
  case latch r => exact Laws.Shape.latch r
  case write r d => exact Laws.Shape.write r d
  case read r => exact Laws.Shape.read r
  case wtr r d => exact Laws.Shape.wtr r d
  case setca d => exact Laws.Shape.setca d
  case getca => exact Laws.Shape.getca
  case findca => exact Laws.Shape.findca
  case m010to000 => exact Laws.Shape.m010to000
  case m000to001 => exact Laws.Shape.m000to001
  case m001to000 => exact Laws.Shape.m001to000
  case m000to010 => exact Laws.Shape.m000to010
  case m010to110 => exact Laws.Shape.m010to110
  case m110to010 => exact Laws.Shape.m110to010
  case m010to011 => exact Laws.Shape.m010to011
  case m011to010 => exact Laws.Shape.m011to010
  case m010to111 => exact Laws.Shape.m010to111
  case m111to010 => exact Laws.Shape.m111to010
  case setmode m => exact Laws.Shape.setmode m
  case busout d => exact Laws.Shape.busout d
  case busin => exact Laws.Shape.busin
  case bussample => exact Laws.Shape.bussample

/-- So it passes the decoder's first two checks. -/
theorem decode_encode_eq_decodeOp (cfg : Config) (i : Instr) :
    decode cfg (encode i) = decodeOp cfg (encode i) (opField (encode i)) := by
  obtain ⟨hop, hmbz⟩ := encode_shape i
  exact decode_eq_decodeOp (by omega) hmbz

/-- The XFER word of a row of the variant's table spells the row's command. -/
theorem decodeOp_packEdge {cfg : Config} {src dst : ModeCode} {i : Instr} (h : ⟨src, dst, i⟩ ∈ edges cfg.variant) :
    decodeOp cfg (packEdge src dst) (opField (packEdge src dst)) = .ok i := by
  rw [opField_packEdge]
  change decodeXfer cfg (fromField _) (toField _) = _
  rw [fromField_packEdge, toField_packEdge, decodeXfer_ok.2 h]

theorem decodeOp_packMode {cfg : Config} {m : ModeCode} (h : (Instr.setmode m).wellFormed cfg = true) :
    decodeOp cfg (packMode m) (opField (packMode m)) = .ok (.setmode m) := by
  rw [opField_packMode]
  change decodeSetmode cfg (toField _) = _
  rw [toField_packMode, decodeSetmode_ok.2 ⟨rfl, h⟩]

/-- A well-formed command is what its word's op and operand fields spell (R102, R103). -/
theorem decodeOp_encode {cfg : Config} {i : Instr} (h : i.wellFormed cfg = true) :
    decodeOp cfg (encode i) (opField (encode i)) = .ok i := by
  cases i
  case setmode m => exact decodeOp_packMode h
  case m010to000 | m000to001 | m001to000 | m000to010 | m010to110 | m110to010 | m010to011 | m011to010 | m010to111 |
      m111to010 =>
    refine decodeOp_packEdge ?_
    cases hv : cfg.variant
    · simp_all [Instr.wellFormed, edges, edgesA]
    · simp_all [Instr.wellFormed, edges, edgesB]
  all_goals simp [encode, decodeOp]

/-- Settles O12: the word of a command passes the decoder's checks, and its fields are the command's operands. -/
theorem decodeOfEncode : Obligations.DecodeOfEncode := fun cfg i h =>
  (decode_encode_eq_decodeOp cfg i).trans (decodeOp_encode h)

/-- Settles O15: nine of the words are encodings; of the other two, one is an edge of Variant A alone and one has a
reserved op. -/
theorem sampleWordsDecode : Obligations.SampleWordsDecode :=
  ⟨decodeOfEncode _ .begin rfl, decodeOfEncode _ (.latch 15) rfl, decodeOfEncode _ (.write 7 0x38) rfl,
    decodeOfEncode _ (.wtr 11 0x7A) rfl, decodeOfEncode _ (.setca 0x35) rfl, decodeOfEncode _ .m010to000 rfl,
    decodeOfEncode _ .m010to111 rfl, decodeOfEncode _ (.setmode 0b111) rfl, decodeOfEncode _ (.busout 0xA5) rfl,
    by decide, decode_reservedOp (by decide)⟩

/-! From an accepted word to its command and back. -/

/-- A word whose must-be-zero bits are zero is its op and the operand fields of its format (R101). -/
theorem packByte_of_formatN {w : Word} {op : Nibble} (ho : w.extractLsb' 12 4 = op) (h : w &&& mbzN = 0) :
    packByte op 0 0 = w := by
  obtain ⟨hr, hd⟩ := fields_of_mbzN h
  rw [eq_packByte w, ho, hr, hd]

theorem packByte_of_formatR {w : Word} {op : Nibble} (ho : w.extractLsb' 12 4 = op) (h : w &&& mbzR = 0) :
    packByte op (regField w) 0 = w := by
  conv_rhs => rw [eq_packByte w, ho, dataField_of_mbzR h]

theorem packByte_of_formatRD {w : Word} {op : Nibble} (ho : w.extractLsb' 12 4 = op) :
    packByte op (regField w) (dataField w) = w := by
  conv_rhs => rw [eq_packByte w, ho]

theorem packByte_of_formatD {w : Word} {op : Nibble} (ho : w.extractLsb' 12 4 = op) (h : w &&& mbzD = 0) :
    packByte op 0 (dataField w) = w := by
  conv_rhs => rw [eq_packByte w, ho, regField_of_mbzD h]

/-- The four bits of the op, from its number (R100). -/
theorem opBits_of_opField {w : Word} {n : Nat} (h : opField w = n) : w.extractLsb' 12 4 = BitVec.ofNat 4 n := by
  rw [← h, opField, BitVec.ofNat_toNat, BitVec.setWidth_eq]

/-- Where a word has op `n` and zero must-be-zero bits, what it spells is a command of the configuration, and this is
its word. -/
theorem encode_of_decodeOp {cfg : Config} {w : Word} {n : Nat} {i : Instr} (hn : opField w = n)
    (hm : w &&& mbzMask n = 0) (h : decodeOp cfg w n = .ok i) : i.wellFormed cfg = true ∧ encode i = w :=
  match n, opBits_of_opField hn, hm, h with
  | 0x0, ho, hm, rfl => ⟨rfl, packByte_of_formatN ho hm⟩
  | 0x1, ho, hm, rfl => ⟨rfl, packByte_of_formatR ho hm⟩
  | 0x2, ho, _, rfl => ⟨rfl, packByte_of_formatRD ho⟩
  | 0x3, ho, hm, rfl => ⟨rfl, packByte_of_formatR ho hm⟩
  | 0x4, ho, _, rfl => ⟨rfl, packByte_of_formatRD ho⟩
  | 0x5, ho, hm, rfl => ⟨rfl, packByte_of_formatD ho hm⟩
  | 0x6, ho, hm, rfl => ⟨rfl, packByte_of_formatN ho hm⟩
  | 0x7, ho, hm, rfl => ⟨rfl, packByte_of_formatN ho hm⟩
  | 0x8, ho, hm, h =>
    have ⟨hw, he⟩ := edge_wellFormed (decodeXfer_ok.1 h)
    ⟨hw, he.trans (eq_packEdge hm ho).symm⟩
  | 0x9, ho, hm, h =>
    have ⟨hi, hw⟩ := decodeSetmode_ok.1 h
    ⟨hw, hi ▸ (eq_packMode hm ho).symm⟩
  | 0xA, ho, hm, rfl => ⟨rfl, packByte_of_formatD ho hm⟩
  | 0xB, ho, hm, rfl => ⟨rfl, packByte_of_formatN ho hm⟩
  | 0xC, ho, hm, rfl => ⟨rfl, packByte_of_formatN ho hm⟩
  | _ + 13, _, _, h => nomatch h

/-- Settles O13: an accepted word has passed the must-be-zero check, so its fields are all of it. -/
theorem acceptedWordIsItsEncoding : Obligations.AcceptedWordIsItsEncoding := by
  intro cfg w i h
  obtain ⟨hm, ho⟩ := decode_ok h
  exact encode_of_decodeOp rfl hm ho

/-! R106's checks in order. -/

theorem opField_eq_shift (w : Word) : opField w = (w >>> 12).toNat := by
  rw [opField, BitVec.extractLsb'_toNat, BitVec.toNat_ushiftRight]
  exact Nat.mod_eq_of_lt (by omega)

/-- Ops other than XFER and SETMODE have no third check. -/
theorem decodeOp_accepts {cfg : Config} {w : Word} {n : Nat} (hn : n < 13) (h8 : n ≠ 8) (h9 : n ≠ 9) :
    ∃ i, decodeOp cfg w n = .ok i :=
  match n, hn, h8, h9 with
  | 0x8, _, h8, _ => absurd rfl h8
  | 0x9, _, _, h9 => absurd rfl h9
  | 0x0, _, _, _ | 0x1, _, _, _ | 0x2, _, _, _ | 0x3, _, _, _ | 0x4, _, _, _ | 0x5, _, _, _ | 0x6, _, _, _
  | 0x7, _, _, _ | 0xA, _, _, _ | 0xB, _, _, _ | 0xC, _, _, _ => ⟨_, rfl⟩

/-- Settles O14: the masks, tables and codes written out are the model's, and each check that fails is the first one
that R106 lists. -/
theorem decoderChecksInOrder : Obligations.DecoderChecksInOrder := by
  intro cfg w op mbz src dst table codes
  have hop : op = opField w := (opField_eq_shift w).symm
  have hmask : ¬ 13 ≤ op → (mbz[op]?).getD 0 = mbzMask op := by
    intro h
    interval_cases op <;> rfl
  have htable : (src, dst) ∈ table ↔ hasEdge cfg.variant src dst = true := by
    have heq : table = (edges cfg.variant).map fun e => (e.src, e.dst) := by
      simp only [table]
      cases cfg.variant <;> rfl
    rw [heq, mem_edgePairs]
  have hcodes : dst ∈ codes ↔ named cfg.variant dst = true := by
    have hperm : codes.Perm (inactiveModes cfg.variant ++ [latchAddr cfg.variant, readData, writeData]) := by
      simp only [codes]
      cases cfg.variant <;> decide
    rw [hperm.mem_iff, named_iff]
  clear_value op mbz table codes
  subst hop
  simp only [htable, hcodes]
  split_ifs with hreserved hmbz hcoarse hcode hedge
  · exact decode_reservedOp hreserved
  · exact decode_nonzeroMbz hreserved (hmask hreserved ▸ hmbz)
  all_goals
    rw [hmask hreserved, not_not] at hmbz
    have hd := decode_eq_decodeOp (cfg := cfg) hreserved hmbz
  · obtain ⟨hop, hc⟩ := hcoarse
    rw [hd, hop]
    exact decodeSetmode_unavailable hc _
  · obtain ⟨hop, hn⟩ := hcode
    rw [hd, hop]
    exact decodeSetmode_notAMode (by simpa [hop] using hcoarse) (Bool.eq_false_iff.2 hn)
  · obtain ⟨hop, he⟩ := hedge
    rw [hd, hop]
    exact decodeXfer_noSuchEdge (Bool.eq_false_iff.2 he)
  · obtain ⟨i, hi⟩ : ∃ i, decodeOp cfg w (opField w) = .ok i := by
      by_cases h8 : opField w = 8
      · rw [h8]
        exact decodeXfer_of_hasEdge (not_not.1 fun he => hedge ⟨h8, he⟩)
      by_cases h9 : opField w = 9
      · rw [h9]
        have hw : (Instr.setmode dst).wellFormed cfg = true := by simp_all [Instr.wellFormed]
        exact ⟨_, decodeSetmode_ok.2 ⟨rfl, hw⟩⟩
      · exact decodeOp_accepts (by omega) h8 h9
    exact ⟨i, hd.trans hi, (encode_of_decodeOp rfl hmbz hi).2⟩

end Sys2Proof.Machine
end

section
/-! PROOFS. The pseudo-instructions of 30_encoding (R112): what their words do when they are presented on the port and
run one by one. A path of edges is run by one induction, and the latch path of each variant is such a path. -/

namespace Sys2Proof.Machine

/-- A presented word of a command that passes its checks: the step is the command's effect. -/
theorem steps_command {n : Nat} {s : State} {i : Instr} {more : List HostInput} (hs : s.stop = .run)
    (hp : s.port = .command (encode i) :: more) (hw : i.wellFormed s.cfg = true)
    (hf : faultOf i (consume more s) = none) : steps (n + 1) s = steps n (effectOf i (consume more s)) := by
  have hstep : step s = .next (effectOf i (consume more s)) :=
    (step_command hs hp (decodeOfEncode _ _ hw)).trans (exec_completes hs (refusalOf_wellFormed hw) hf)
  rw [steps, hstep]

/-- Once the port is empty there is nothing left to take. -/
theorem consume_nil {s : State} (h : s.port = []) : consume [] s = s := by rw [← h]; rfl

/-- The checks and the effect of a row of an edge table are XFER's (R130). -/
theorem edge_meaning {v : Variant} {e : Edge} (h : e ∈ edges v) :
    faultOf e.cmd = afterBegun (xferFault e.src e.dst) ∧
      effectOf e.cmd = fun s => respond .none (edgeStep e.src e.dst s) := by
  cases v <;> fin_cases h <;> exact ⟨rfl, rfl⟩

/-- Edges of the variant's table, each from where the one before it led, and none into READ_DATA. -/
def pathFrom (v : Variant) : ModeCode → List Edge → Prop
  | _, [] => True
  | m, e :: es => e ∈ edges v ∧ e.src = m ∧ isRead e.dst = false ∧ pathFrom v e.dst es

/-- The edges taken one after the other. -/
def alongPath (es : List Edge) (s : State) : State := es.foldl (fun s e => edgeStep e.src e.dst s) s

theorem edgeStep_consume (src dst : ModeCode) (more : List HostInput) (s : State) :
    edgeStep src dst (consume more s) = consume more (edgeStep src dst s) := rfl

theorem alongPath_consume (es : List Edge) (more : List HostInput) (s : State) :
    alongPath es (consume more s) = consume more (alongPath es s) := by
  induction es generalizing s with
  | nil => rfl
  | cons e es ih => exact ih (edgeStep e.src e.dst s)

/-- While the bus is driven an edge from the current mode passes XFER's checks, unless it enters READ_DATA (R132). -/
theorem xferFault_driven {s : State} {src dst : ModeCode} (hs : s.ready) (hm : s.mode = some src)
    (hd : s.dbusDir = .output) (hr : isRead dst = false) : afterBegun (xferFault src dst) s = none := by
  obtain ⟨-, hi⟩ := hs
  simp [afterBegun, xferFault, phaseCheck, hi, hm, hd, hr]

/-- The words of a path, presented while the bus is driven, take its edges one by one. -/
theorem steps_path {es : List Edge} {m : ModeCode} {s : State} (hs : s.ready) (hm : s.mode = some m)
    (hd : s.dbusDir = .output) (hpath : pathFrom s.cfg.variant m es)
    (hp : s.port = (assemble (es.map Edge.cmd)).map .command) :
    steps es.length (respond .none s) = .next (respond .none (consume [] (alongPath es s))) := by
  induction es generalizing s m with
  | nil => exact congrArg (fun s => Host.Outcome.next (respond .none s)) (consume_nil hp).symm
  | cons e es ih =>
    obtain ⟨he, rfl, hr, hrest⟩ := hpath
    obtain ⟨hfault, heffect⟩ := edge_meaning he
    obtain ⟨hw, -⟩ := edge_wellFormed (cfg := s.cfg) he
    generalize hmore : (assemble (es.map Edge.cmd)).map HostInput.command = more at ih
    have hpass : faultOf e.cmd (consume more (respond .none s)) = none := by
      rw [hfault]
      exact xferFault_driven (s := consume more (respond .none s)) hs hm hd hr
    calc steps (es.length + 1) (respond .none s)
        = steps es.length (effectOf e.cmd (consume more (respond .none s))) :=
          steps_command (s := respond .none s) hs.1 (hmore ▸ hp) hw hpass
      _ = steps es.length (respond .none (edgeStep e.src e.dst (consume more s))) := by rw [heffect]; rfl
      _ = .next (respond .none (consume [] (alongPath es (edgeStep e.src e.dst (consume more s))))) :=
          ih (s := edgeStep e.src e.dst (consume more s)) hs rfl hd hrest rfl
      _ = .next (respond .none (consume [] (alongPath (e :: es) s))) := by
          rw [edgeStep_consume, alongPath_consume]; rfl

/-- The latch path of a variant, as rows of its edge table (R182, R190). -/
def latchPathEdges : Variant → List Edge
  | .a => [⟨0b010#3, 0b000#3, .m010to000⟩, ⟨0b000#3, 0b001#3, .m000to001⟩, ⟨0b001#3, 0b000#3, .m001to000⟩,
      ⟨0b000#3, 0b010#3, .m000to010⟩]
  | .b => [⟨0b010#3, 0b111#3, .m010to111⟩, ⟨0b111#3, 0b010#3, .m111to010⟩]

theorem pathFrom_latchPathEdges (v : Variant) : pathFrom v rest (latchPathEdges v) := by
  cases v <;> simp [pathFrom, latchPathEdges, edges, edgesA, edgesB, rest, isRead, readData]

theorem alongPath_latchPathEdges (s : State) : alongPath (latchPathEdges s.cfg.variant) s = latchPath s := by
  unfold latchPath
  cases s.cfg.variant <;> rfl

/-- BUSOUT passes its checks at REST (R161). -/
theorem busoutFault_atRest {s : State} (h : s.atRest) : afterBegun busoutFault s = none := by
  obtain ⟨⟨-, hi⟩, hm⟩ := h
  simp only [afterBegun, hi, busoutFault, modeIs, hm]
  cases s.cfg.variant <;> rfl

/-- BUSOUT and the latch path, as words: the chip sees one latch of the whole byte, and the bus stays OUT at REST. -/
theorem steps_latch {v : Variant} {s : State} {a : Byte} (hvalid : configValid s.cfg = true) (hrest : s.atRest)
    (hv : s.cfg.variant = v) (hp : s.port = (assemble (.busout a :: (latchPathEdges v).map Edge.cmd)).map .command) :
    steps ((latchPathEdges v).length + 1) s = .next { s with
      dbusDir := .output, dbusOut := some a, resp := .none, upc := 0, port := []
      trace := s.trace ++ busOutEvents a s.dbusDir ++ latchPathEvents v
      responder := s.responder.map (latched s.cfg a) } := by
  subst hv
  obtain ⟨hready, hm⟩ := hrest
  generalize hmore : (assemble ((latchPathEdges s.cfg.variant).map Edge.cmd)).map HostInput.command = more
  have hpass : faultOf (.busout a) (consume more s) = none :=
    busoutFault_atRest (s := consume more s) ⟨hready, hm⟩
  have hout : busOut a (consume more s) = { s with
      dbusDir := .output, dbusOut := some a, port := more, trace := s.trace ++ busOutEvents a s.dbusDir
      upc := s.upc + (busOutEvents a s.dbusDir).length } := busOut_eq a (consume more s)
  calc steps ((latchPathEdges s.cfg.variant).length + 1) s
      = steps (latchPathEdges s.cfg.variant).length (respond .none (busOut a (consume more s))) :=
        steps_command hready.1 (hmore ▸ hp) rfl hpass
    _ = .next (respond .none (consume [] (latchSeq a (consume more s)))) := by
        rw [latchSeq, ← alongPath_latchPathEdges, hout]
        exact steps_path hready hm rfl (pathFrom_latchPathEdges _) hmore.symm
    _ = _ := by
        rw [latchSeq_eq, ← latchEvents_valid hvalid]
        congr 1
        ext1 <;> simp [hm]

theorem encode_busout (a : Byte) : encode (.busout a) = 0xA0#8 ++ a := rfl

theorem encode_setcan (n : Nibble) : encode (.setca (n ++ 0#4)) = 0x50#8 ++ n ++ 0#4 := by
  revert n; decide

theorem topNibble_append (n : Nibble) : topNibble (n ++ 0#4) = n := by
  revert n; decide

/-- Settles O53: SETCAN is one SETCA, and LATCHA and LATCHB are BUSOUT and the latch path of their variant. -/
theorem pseudoInstructionsExpand : Obligations.PseudoInstructionsExpand := by
  refine ⟨fun n => ?_, fun a => ⟨?_, ?_⟩, fun s n hs hp => ?_, fun s a hvalid hrest hv hp => ?_,
    fun s a hvalid hrest hv hp => ?_⟩
  · rw [← encode_setcan]; rfl
  · rw [← encode_busout]; rfl
  · rw [← encode_busout]; rfl
  · have hrun : steps 1 s = .next (respond .none (setChipAddress (n ++ 0#4) (consume [] s))) :=
      steps_command hs hp rfl rfl
    rw [hrun, setChipAddress, topNibble_append]
    rfl
  · exact steps_latch hvalid hrest hv hp
  · exact steps_latch hvalid hrest hv hp

end Sys2Proof.Machine
end

section
/-! PROOFS. The statements of 40_bus_mode: XFER over each edge, SETMODE, and lines without a pin. The checks before a
change of mode and the two commands' answers are said once; the statements read them off. -/

namespace Sys2Proof.Machine

/-! A command's stops, and the checks before a change of mode (R132, R258). -/

theorem exec_refused {i : Instr} {s : State} {c : RefusalCode} (hs : s.stop = .run) (h : refusalOf i s = some c) :
    exec i s = .next (refuse c s) := exec_eq i s ▸ command_refused hs h

theorem exec_faults {i : Instr} {s : State} {c : FaultCode} (hs : s.stop = .run) (hr : refusalOf i s = none)
    (h : faultOf i s = some c) : exec i s = .next (raiseFault c s) := exec_eq i s ▸ command_faults hs hr h

theorem afterBegun_unbegun {f : State → Option FaultCode} {s : State} (h : s.init = false) :
    afterBegun f s = some .notBegun := if_pos h

theorem afterBegun_begun {f : State → Option FaultCode} {s : State} (h : s.init = true) : afterBegun f s = f s :=
  if_neg (by simp [h])

theorem phaseCheck_contention {s : State} {dst : ModeCode} (h : dst = 0b011#3 ∧ s.dbusDir = .output) :
    phaseCheck dst s = some .busContention := by
  obtain ⟨rfl, hd⟩ := h
  exact if_pos ⟨rfl, hd⟩

theorem phaseCheck_undriven {s : State} {dst : ModeCode}
    (h : (dst = 0b110#3 ∨ dst = latchAddr s.cfg.variant) ∧ s.dbusDir = .input) :
    phaseCheck dst s = some .undrivenBus := by
  obtain ⟨hdst, hd⟩ := h
  have hpulse : isLatch s.cfg.variant dst = true ∨ isWrite dst = true := by
    simpa [isLatch, isWrite, writeData, or_comm] using hdst
  simp [phaseCheck, hd, hpulse]

theorem phaseCheck_clear {s : State} {dst : ModeCode} (hc : ¬ (dst = 0b011#3 ∧ s.dbusDir = .output))
    (hu : ¬ ((dst = 0b110#3 ∨ dst = latchAddr s.cfg.variant) ∧ s.dbusDir = .input)) : phaseCheck dst s = none := by
  refine phaseCheck_passes (fun h => ?_) (fun h => ?_) <;> cases hd : s.dbusDir
  · rfl
  · exact absurd ⟨h, hd⟩ hc
  · exact absurd ⟨h, hd⟩ hu
  · rfl

/-! XFER (R130). -/

theorem xfer_refused {s : State} {src dst : ModeCode} (hs : s.stop = .run)
    (h : hasEdge s.cfg.variant src dst = false) : xfer src dst s = .next (refuse .noSuchEdge s) :=
  command_refused hs (by simp [xferRefusal, h])

theorem xferRefusal_none {s : State} {src dst : ModeCode} (h : hasEdge s.cfg.variant src dst = true) :
    xferRefusal src dst s = none := if_pos h

theorem xferFault_mismatch {s : State} {src dst : ModeCode} (h : s.mode ≠ some src) :
    xferFault src dst s = some .modeMismatch := if_pos h

theorem xferFault_of_mode {s : State} {src dst : ModeCode} (h : s.mode = some src) :
    xferFault src dst s = phaseCheck dst s := if_neg (not_not.2 h)

/-- An edge of the variant, from its own mode: PhaseCheck alone decides. -/
theorem xfer_faults {s : State} {src dst : ModeCode} {c : FaultCode} (hs : s.ready)
    (he : hasEdge s.cfg.variant src dst = true) (hm : s.mode = some src) (hp : phaseCheck dst s = some c) :
    xfer src dst s = .next (raiseFault c s) := by
  obtain ⟨hrun, hi⟩ := hs
  exact command_faults hrun (xferRefusal_none he) (by rw [afterBegun_begun hi, xferFault_of_mode hm, hp])

theorem xfer_completes {s : State} {src dst : ModeCode} (hs : s.ready)
    (he : hasEdge s.cfg.variant src dst = true) (hm : s.mode = some src) (hp : phaseCheck dst s = none) :
    xfer src dst s = .next (respond .none (edgeStep src dst s)) := by
  obtain ⟨hrun, hi⟩ := hs
  exact command_completes hrun (xferRefusal_none he) (by rw [afterBegun_begun hi, xferFault_of_mode hm, hp])

/-- Settles O17: each row's command is XFER over its pair, in exactly the row's variants, and XFER's answers are known
check by check. -/
theorem xferTakesOneEdge : Obligations.XferTakesOneEdge := by
  intro i word src dst variants hrow
  obtain ⟨hword, hexec, hvariants⟩ : encode i = word ∧ exec i = xfer src dst ∧
      ∀ v, v ∈ variants ↔ hasEdge v src dst = true := by
    fin_cases hrow <;> exact ⟨rfl, rfl, fun v => by cases v <;> decide⟩
  refine ⟨hword, fun s hs => ?_⟩
  rw [hexec, hvariants]
  refine ⟨fun he => xfer_refused hs (Bool.eq_false_iff.2 he), fun he => ⟨fun hi => ?_, fun hi hm => ?_,
    fun hi hm => ⟨fun hc => ?_, fun hu => ?_, fun hc hu => ?_⟩⟩⟩
  · exact command_faults hs (xferRefusal_none he) (afterBegun_unbegun hi)
  · exact command_faults hs (xferRefusal_none he) ((afterBegun_begun hi).trans (xferFault_mismatch hm))
  · exact xfer_faults ⟨hs, hi⟩ he hm (phaseCheck_contention hc)
  · exact xfer_faults ⟨hs, hi⟩ he hm (phaseCheck_undriven hu)
  · rw [xfer_completes ⟨hs, hi⟩ he hm (phaseCheck_clear hc hu), edgeStep_respond, edgeEvents]

/-! SETMODE (R108, R145). -/

theorem setmodeRefusal_unavailable {s : State} {m : ModeCode} (h : s.cfg.coarseEdgesOk = false) :
    setmodeRefusal m s = some .setmodeUnavailable := if_pos h

theorem setmodeRefusal_notAMode {s : State} {m : ModeCode} (hc : s.cfg.coarseEdgesOk = true)
    (hn : named s.cfg.variant m = false) : setmodeRefusal m s = some .notAMode := by simp [setmodeRefusal, hc, hn]

theorem setmodeFault_same {s : State} {m : ModeCode} (h : s.mode = some m) : setmodeFault m s = none := if_pos h

theorem setmodeFault_of_ne {s : State} {m : ModeCode} (h : s.mode ≠ some m) : setmodeFault m s = phaseCheck m s :=
  if_neg h

theorem effectOf_setmode (m : ModeCode) (s : State) :
    effectOf (.setmode m) s = respond .none (coarseChange m s) := rfl

/-- SETMODE's word (R101, R113). -/
theorem encode_setmode (m : ModeCode) : encode (.setmode m) = 0x9000 ||| m.zeroExtend 16 := by
  revert m; decide

/-- Settles O19: SETMODE's checks one by one, and its effect from the current mode or from another. -/
theorem setmodeChangesMode : Obligations.SetmodeChangesMode := by
  intro s m hs
  refine ⟨encode_setmode m, fun hc => exec_refused hs (setmodeRefusal_unavailable hc),
    fun hc hn => exec_refused hs (setmodeRefusal_notAMode hc hn), fun hc hn => ?_⟩
  have hr : refusalOf (.setmode m) s = none := refusalOf_wellFormed (by simp [Instr.wellFormed, hc, hn])
  refine ⟨fun hi => exec_faults hs hr (afterBegun_unbegun hi), fun hi hm => ?_, fun hi hm => ?_⟩
  · have hf : faultOf (.setmode m) s = none := (afterBegun_begun hi).trans (setmodeFault_same hm)
    rw [exec_completes hs hr hf, effectOf_setmode, coarseChange_same hm]
    rfl
  · have hphase : faultOf (.setmode m) s = phaseCheck m s := (afterBegun_begun hi).trans (setmodeFault_of_ne hm)
    refine ⟨fun h => ?_, fun h => ?_, fun hcont hundr src hsrc => ?_⟩
    · exact exec_faults hs hr (hphase.trans (phaseCheck_contention h))
    · exact exec_faults hs hr (hphase.trans (phaseCheck_undriven h))
    · rw [exec_completes hs hr (hphase.trans (phaseCheck_clear hcont hundr)), effectOf_setmode,
        coarseChange_eq hm, hsrc]
      rfl

/-! Lines without a pin (R22, R144). -/

/-- Only Variant A's edges write BC2 (R95, R96). -/
theorem edge_writes_bc2 {v : Variant} {e : Edge} (he : e ∈ edges v) {p : Line × Bool} (hp : p ∈ lines e.src e.dst)
    (hl : p.1 = .bc2) : v = .a := by
  have hb : ∀ e ∈ edges .b, ∀ p ∈ lines e.src e.dst, p.1 ≠ .bc2 := by decide
  cases v
  · rfl
  · exact absurd hl (hb e he p hp)

/-- A valid configuration has a pin on BDIR and BC1, and in Variant A on BC2 (R22). -/
theorem ctlConn_of_configValid {cfg : Config} {l : Line} (h : configValid cfg = true)
    (hl : l = .bc2 → cfg.variant = .a) : ctlConn cfg l = true := by
  obtain ⟨hbdir, hbc1⟩ := configValid_bdir_bc1 h
  cases l
  case bdir => exact hbdir
  case bc1 => exact hbc1
  case bc2 =>
    obtain ⟨-, hbc2, -⟩ := configValid_a h (hl rfl)
    exact hbc2

/-- Settles O18: the edge is taken whole, its one line is dropped from the output update; and a valid configuration
leaves no line of an edge to drop. -/
theorem unconnectedControlLine : Obligations.UnconnectedControlLine := by
  refine ⟨fun s l b src dst he hlines hl hs hm hp => ?_, fun cfg hvalid e he => ?_⟩
  · have hevents : edgeEvents s.cfg src dst = [.ctl [], .mode (some src) dst] := by
      simp [edgeEvents, hlines, connectedOnly, hl]
    exact ⟨_, xfer_completes hs he hm hp, rfl, by rw [respond_trace, edgeStep_trace, hevents]⟩
  · exact List.filter_eq_self.2 fun p hp => ctlConn_of_configValid hvalid (edge_writes_bc2 he hp)

end Sys2Proof.Machine
end

section
/-! PROOFS. The statements of 41_data_bus: BUSOUT, BUSIN and BUSSAMPLE, and what lines without a pin keep out of every
command. The two checks on the mode are said once; the three commands read their answers off them. -/

namespace Sys2Proof.Machine

/-! The modes in which BUSOUT and BUSIN stop (R161, R164). -/

theorem modeIs_of_mode {p : ModeCode → Bool} {s : State} {m : ModeCode} (hm : s.mode = some m) :
    modeIs p s = p m := by simp [modeIs, hm]

/-- The modes in which the bus direction may not change under a pulse: LATCH_ADDR and WRITE_DATA (R161, R164). -/
theorem modeIs_pulse_iff {s : State} {m : ModeCode} (hm : s.mode = some m) :
    (modeIs (isLatch s.cfg.variant) s = true ∨ modeIs isWrite s = true) ↔
      (m = latchAddr s.cfg.variant ∨ m = 0b110#3) := by
  simp [modeIs_of_mode hm, isLatch, isWrite, writeData]

theorem modeIs_isRead_iff {s : State} {m : ModeCode} (hm : s.mode = some m) :
    modeIs isRead s = true ↔ m = 0b011#3 := by simp [modeIs_of_mode hm, isRead, readData]

/-- READ_DATA is no pulse mode of either variant. -/
theorem pulse_ne_readData {v : Variant} {m : ModeCode} (h : m = latchAddr v ∨ m = 0b110#3) : m ≠ 0b011#3 := by
  rintro rfl
  cases v <;> revert h <;> decide

theorem busoutFault_readData {s : State} (hm : s.mode = some 0b011#3) : busoutFault s = some .busContention :=
  if_pos ((modeIs_isRead_iff hm).2 rfl)

theorem busoutFault_pulse {s : State} {m : ModeCode} (hm : s.mode = some m)
    (h : m = latchAddr s.cfg.variant ∨ m = 0b110#3) : busoutFault s = some .busChangeInPulse := by
  rw [busoutFault, if_neg (mt (modeIs_isRead_iff hm).1 (pulse_ne_readData h)), if_pos ((modeIs_pulse_iff hm).2 h)]

theorem busoutFault_none {s : State} {m : ModeCode} (hm : s.mode = some m) (hr : m ≠ 0b011#3)
    (h : ¬ (m = latchAddr s.cfg.variant ∨ m = 0b110#3)) : busoutFault s = none := by
  rw [busoutFault, if_neg (mt (modeIs_isRead_iff hm).1 hr), if_neg (mt (modeIs_pulse_iff hm).1 h)]

theorem businFault_pulse {s : State} {m : ModeCode} (hm : s.mode = some m)
    (h : m = latchAddr s.cfg.variant ∨ m = 0b110#3) : businFault s = some .undrivenBus :=
  if_pos ((modeIs_pulse_iff hm).2 h)

theorem businFault_none {s : State} {m : ModeCode} (hm : s.mode = some m)
    (h : ¬ (m = latchAddr s.cfg.variant ∨ m = 0b110#3)) : businFault s = none :=
  if_neg (mt (modeIs_pulse_iff hm).1 h)

/-! BUSOUT and BUSIN (R160 to R162, R164). -/

theorem busOutEvents_eq (d : Byte) (dir : BusDir) :
    busOutEvents d dir = if dir = .input then [.drive d, .dir .output] else [.drive d] := by cases dir <;> rfl

theorem busInEvents_eq (dir : BusDir) : busInEvents dir = if dir = .output then [.dir .input] else [] := by
  cases dir <;> rfl

/-- Settles O20: the mode selects the fault, and where there is none the effect is BusOut. -/
theorem busoutDrives : Obligations.BusoutDrives := by
  intro s d hs
  refine ⟨by revert d; decide, fun hi => exec_faults hs rfl (afterBegun_unbegun hi),
    fun hi m hm => ⟨?_, fun hpulse => ?_, fun hr hl hw => ?_⟩⟩
  · rintro rfl
    exact exec_faults hs rfl ((afterBegun_begun hi).trans (busoutFault_readData hm))
  · exact exec_faults hs rfl ((afterBegun_begun hi).trans (busoutFault_pulse hm hpulse))
  · have hpass : faultOf (.busout d) s = none :=
      (afterBegun_begun hi).trans (busoutFault_none hm hr (not_or.2 ⟨hl, hw⟩))
    rw [exec_completes hs rfl hpass, ← busOutEvents_eq]
    simp only [effectOf, busOut_eq, respond]

/-- Settles O21: the mode selects the fault, and where there is none the effect is BusIn. -/
theorem businReleases : Obligations.BusinReleases := by
  refine ⟨by decide, fun s hs => ⟨fun hi => exec_faults hs rfl (afterBegun_unbegun hi),
    fun hi m hm => ⟨fun hpulse => ?_, fun hl hw => ?_⟩⟩⟩
  · exact exec_faults hs rfl ((afterBegun_begun hi).trans (businFault_pulse hm hpulse))
  · have hpass : faultOf .busin s = none := (afterBegun_begun hi).trans (businFault_none hm (not_or.2 ⟨hl, hw⟩))
    rw [exec_completes hs rfl hpass, ← busInEvents_eq]
    simp only [effectOf, busIn_eq, respond]

/-! BUSSAMPLE (R163, R167). -/

theorem bussampleFault_output {s : State} (hd : s.dbusDir = .output) :
    bussampleFault s = some .sampleWhileDriving := if_pos hd

theorem bussampleFault_input {s : State} (hd : s.dbusDir = .input) : bussampleFault s = none := if_neg (by simp [hd])

/-- Settles O22: the direction of the bus decides, and the answer is SampleByte's byte. -/
theorem bussampleReads : Obligations.BussampleReads := by
  refine ⟨by decide, fun s hs => ⟨fun hi => exec_faults hs rfl (afterBegun_unbegun hi), fun hi hd => ?_,
    fun hi hd => ?_⟩⟩
  · exact exec_faults hs rfl ((afterBegun_begun hi).trans (bussampleFault_output hd))
  · refine ⟨(sampleByte s).1, sampleByte_bits s, ?_⟩
    have hpass : faultOf .bussample s = none := (afterBegun_begun hi).trans (bussampleFault_input hd)
    rw [exec_completes hs rfl hpass]
    simp only [effectOf, respondSampled, sampleByte_state, respond]

/-! Lines without a pin (R165): never sampled in any piece of a trace, and 0 in every byte read. -/

/-- No event of `es` samples line `n`. -/
def neverSamples (n : Fin 8) (es : List Event) : Prop := ∀ b, .sample n b ∉ es

@[simp] theorem neverSamples_nil (n : Fin 8) : neverSamples n [] := by simp [neverSamples]

@[simp] theorem neverSamples_append {n : Fin 8} {es fs : List Event} :
    neverSamples n (es ++ fs) ↔ neverSamples n es ∧ neverSamples n fs := by
  simp [neverSamples, not_or, forall_and]

@[simp] theorem neverSamples_cons {n : Fin 8} {e : Event} {es : List Event} :
    neverSamples n (e :: es) ↔ (∀ b, e ≠ .sample n b) ∧ neverSamples n es := by
  simp [neverSamples, not_or, forall_and, eq_comm]

@[simp] theorem neverSamples_busOutEvents (n : Fin 8) (a : Byte) (d : BusDir) : neverSamples n (busOutEvents a d) := by
  cases d <;> simp [busOutEvents]

@[simp] theorem neverSamples_busInEvents (n : Fin 8) (d : BusDir) : neverSamples n (busInEvents d) := by
  cases d <;> simp [busInEvents]

@[simp] theorem neverSamples_edgeEvents (n : Fin 8) (cfg : Config) (src dst : ModeCode) :
    neverSamples n (edgeEvents cfg src dst) := by simp [edgeEvents]

@[simp] theorem neverSamples_latchEvents (n : Fin 8) (cfg : Config) : neverSamples n (latchEvents cfg) := by
  cases hv : cfg.variant <;> simp [latchEvents, hv]

@[simp] theorem neverSamples_beginEvents (n : Fin 8) (s : State) : neverSamples n (beginEvents s) := by
  by_cases hm : s.mode = some rest <;> by_cases hr : s.cfg.resetConn = true <;>
    simp [beginEvents, returnEvents, resetEvents, hm, hr]

/-- SampleByte samples the connected lines alone (R163). -/
theorem neverSamples_sampleEvents {n : Fin 8} {cfg : Config} (hn : lineConnected cfg n = false) (v : Byte) :
    neverSamples n (sampleEvents cfg v) := by
  intro b hb
  obtain ⟨i, hi, heq⟩ := List.mem_map.1 hb
  obtain ⟨rfl, -⟩ := Event.sample.inj heq
  simp [connectedLines, hn] at hi

/-- A line without a pin is sampled in no piece of a command's trace. -/
theorem neverSamples_pieces {n : Fin 8} {s : State} (hn : lineConnected s.cfg n = false) :
    HoldsOfPieces (neverSamples n) s where
  none := neverSamples_nil n
  append _ _ he hf := neverSamples_append.2 ⟨he, hf⟩
  busOut := neverSamples_busOutEvents n
  busIn := neverSamples_busInEvents n
  edge := neverSamples_edgeEvents n s.cfg
  coarse _ _ := by simp
  samples := neverSamples_sampleEvents hn
  latch := neverSamples_latchEvents n s.cfg
  begins := neverSamples_beginEvents n s
  pulse _ := by simp [pulseSectionEvents]
  wtr _ _ _ _ := by simp [wtrEvents, neverSamples_sampleEvents hn]

theorem dataPin_absent {n : Fin 8} {s : State} (hn : lineConnected s.cfg n = false) : dataPin n s = .absent :=
  if_pos hn

theorem bitRead_unconnected {n : Fin 8} {s : State} (hn : lineConnected s.cfg n = false) : bitRead s n = false := by
  simp [bitRead, hn]

/-- READ, WTR and BUSSAMPLE answer a byte read from the bus, in which a line without a pin is 0. -/
theorem effect_answersZero {n : Fin 8} {i : Instr} {s : State} (hn : lineConnected s.cfg n = false)
    (hi : (∃ r, i = .read r) ∨ (∃ r d, i = .wtr r d) ∨ i = .bussample) :
    ∃ v : Byte, (effectOf i s).resp = .byte v ∧ v.getLsbD n = false := by
  obtain ⟨r, rfl⟩ | ⟨r, d, rfl⟩ | rfl := hi
  · exact ⟨_, rfl, (readSeq_bits _ n).trans (bitRead_unconnected (by simpa [latchSeq_eq] using hn))⟩
  · exact ⟨_, rfl, (wtrBody_bits r d s n).trans (bitRead_unconnected hn)⟩
  · exact ⟨_, rfl, (sampleByte_bits s n).trans (bitRead_unconnected hn)⟩

/-- Settles O43: the wiring is that of before, no piece of the trace samples the line, and its bit in a byte read is
0. -/
theorem unconnectedDataLines : Obligations.UnconnectedDataLines := by
  intro i s t n hn h
  refine ⟨dataPin_absent (by rw [exec_cfg h]; exact hn), exec_events (neverSamples_pieces hn) h, fun hi hrun => ?_⟩
  obtain ⟨-, rfl⟩ := exec_running h hrun
  exact effect_answersZero hn hi

end Sys2Proof.Machine
end

section
/-! PROOFS. The statements of 42_transactions: the entry check, what each of the four transactions does from REST, the
two rules on their traces, and a write read back through the reference responder. Each transaction's effect in a valid
configuration is said once; the statements read their trace and their end state off it. -/

namespace Sys2Proof.Machine

/-! The words (R101, R113). -/

/-- A word of format RD as the bitwise OR of its fields. -/
theorem packByte_eq_or (op r : Nibble) (d : Byte) :
    packByte op r d = op.zeroExtend 16 <<< 12 ||| r.zeroExtend 16 <<< 8 ||| d.zeroExtend 16 := by
  unfold packByte
  apply BitVec.eq_of_getLsbD_eq
  intro i hi
  simp only [BitVec.getLsbD_append, BitVec.getLsbD_or, BitVec.getLsbD_shiftLeft, BitVec.getLsbD_setWidth]
  interval_cases i <;> simp

/-- Format R is format RD with no data byte. -/
theorem packByte_zero_eq_or (op r : Nibble) :
    packByte op r 0 = op.zeroExtend 16 <<< 12 ||| r.zeroExtend 16 <<< 8 := by
  simp [packByte_eq_or]

/-! The entry check (R180). -/

theorem txCheck_unbegun {s : State} (h : s.init = false) : txCheck s = some .notBegun := afterBegun_unbegun h

theorem txCheck_notResting {s : State} (hi : s.init = true) (hm : s.mode ≠ some rest) :
    txCheck s = some .notResting := (afterBegun_begun hi).trans (if_pos hm)

/-- No configuration refuses a command that TxCheck guards. -/
theorem refusalOf_startsAtRest {i : Instr} (h : startsAtRest i = true) (s : State) : refusalOf i s = none := by
  cases i
  case latch | write | read | wtr | findca => rfl
  all_goals cases h

theorem startsAtRest_checksEntry {i : Instr} {s : State} (h : startsAtRest i = true) (hs : s.stop = .run) :
    checksEntry i s := by
  have hr := refusalOf_startsAtRest h s
  have hf := faultOf_startsAtRest h
  exact ⟨fun hi => exec_faults hs hr (hf ▸ txCheck_unbegun hi),
    fun hi hm => exec_faults hs hr (hf ▸ txCheck_notResting hi hm)⟩

/-- At REST such a command takes its effect. -/
theorem exec_atRest {i : Instr} {s : State} (h : startsAtRest i = true) (hs : s.atRest) :
    exec i s = .next (effectOf i s) :=
  exec_transaction hs (refusalOf_startsAtRest h s) (faultOf_startsAtRest h)

/-- Settles O11: TxCheck is all that can stop them, and no effect writes `stop`. -/
theorem transactionsNeedRest : Obligations.TransactionsNeedRest := by
  intro i s hs hi
  have hstart : startsAtRest i = true := by
    obtain ⟨r, rfl⟩ | ⟨r, d, rfl⟩ | ⟨r, rfl⟩ | ⟨r, d, rfl⟩ | rfl := hi <;> rfl
  exact ⟨startsAtRest_checksEntry hstart hs, fun hinit hm =>
    ⟨_, exec_atRest hstart ⟨⟨hs, hinit⟩, hm⟩, (effect_stop i s).trans hs⟩⟩

/-- The byte READ answers (R199). -/
def readByte (r : Nibble) (s : State) : Byte := (readSeq (latchSeq (composite s.ca r) s)).1

/-! What each transaction does in a valid configuration, where every line that a path writes has a pin. -/

section
variable {s : State} (hvalid : configValid s.cfg = true)
include hvalid

theorem pulseEvents_valid :
    edgeEvents s.cfg 0b010#3 0b110#3 ++ ([.holdWrite] ++ edgeEvents s.cfg 0b110#3 0b010#3) = pulseEvents := by
  rw [edgeEvents_write hvalid, edgeEvents_writeEnd hvalid]
  rfl

/-- Everything LATCH does (R191). -/
theorem effect_latch (r : Nibble) :
    effectOf (.latch r) s = { s with
      mode := some rest
      dbusDir := .output
      dbusOut := some (s.ca ++ r)
      resp := .none
      upc := 0
      trace := s.trace ++ busOutEvents (s.ca ++ r) s.dbusDir ++ latchPathEvents s.cfg.variant
      responder := s.responder.map (latched s.cfg (s.ca ++ r)) } := by
  simp only [effectOf, latchSeq_eq, respond, composite_eq, latchEvents_valid hvalid]

/-- Everything WRITE does (R195). -/
theorem effect_write (r : Nibble) (d : Byte) :
    effectOf (.write r d) s = { s with
      mode := some rest
      dbusDir := .input
      dbusOut := some d
      ieSaved := some s.hostIe
      crit := false
      resp := .none
      upc := 0
      trace := s.trace ++ busOutEvents (s.ca ++ r) s.dbusDir ++ latchPathEvents s.cfg.variant ++ [.drive d] ++
        [.crit .enter s.hostIe] ++ pulseEvents ++ [.crit .exit s.hostIe] ++ [.dir .input]
      responder := s.responder.map fun rr => stored s.cfg d (latched s.cfg (s.ca ++ r) rr) } := by
  simp only [effectOf, writeSeq_eq, respond, composite_eq, latchEvents_valid hvalid, ← pulseEvents_valid hvalid,
    List.append_assoc]

/-- Everything READ does (R199); its byte is what `read_bits` says. -/
theorem effect_read (r : Nibble) :
    effectOf (.read r) s = { s with
      mode := some rest
      dbusDir := .input
      dbusOut := some (s.ca ++ r)
      resp := .byte (readByte r s)
      upc := 0
      trace := s.trace ++ busOutEvents (s.ca ++ r) s.dbusDir ++ latchPathEvents s.cfg.variant ++ [.dir .input] ++
        readEntryEvents ++ sampleEvents s.cfg (readByte r s) ++ readExitEvents
      draws := s.draws + drawsOfRead s
      responder := s.responder.map (latched s.cfg (s.ca ++ r)) } := by
  have hdraws : drawsOfRead (latchSeq (composite s.ca r) s) = drawsOfRead s := by
    rw [latchSeq_eq]
    cases hr : s.responder <;> simp [drawsOfRead, hr]
  unfold readByte
  generalize hv : (readSeq (latchSeq (composite s.ca r) s)).1 = v
  simp only [effectOf, respondRead, readSeq_state, hv, hdraws, respond]
  simp only [latchSeq_eq, composite_eq, latchEvents_valid hvalid, edgeEvents_read hvalid, edgeEvents_readEnd hvalid,
    busInEvents]

/-- Everything WTR does (R201); its byte is what `wtr_bits` says. -/
theorem effect_wtr (r : Nibble) (d : Byte) :
    effectOf (.wtr r d) s = { s with
      mode := some rest
      dbusDir := .input
      dbusOut := some d
      ieSaved := some s.hostIe
      crit := false
      resp := .byte (wtrBody r d s).1
      upc := 0
      trace := s.trace ++ [.crit .enter s.hostIe] ++ busOutEvents (s.ca ++ r) s.dbusDir ++
        latchPathEvents s.cfg.variant ++ [.drive d] ++ pulseEvents ++ [.dir .input] ++ readEntryEvents ++
        sampleEvents s.cfg (wtrBody r d s).1 ++ readExitEvents ++ [.crit .exit s.hostIe]
      draws := s.draws + drawsOfRead s
      responder := s.responder.map fun rr => stored s.cfg d (latched s.cfg (s.ca ++ r) rr) } := by
  simp only [effectOf, respondWtr, wtrBody_state, respond, wtrResponder, composite_eq, latchEvents_valid hvalid,
    edgeEvents_read hvalid, edgeEvents_readEnd hvalid, ← pulseEvents_valid hvalid, List.append_assoc]

end

/-- The byte READ answers: line by line what the bus answers in READ_DATA after the latch (R199). -/
theorem read_bits (r : Nibble) (s : State) (i : Fin 8) :
    (readByte r s).getLsbD i = bitRead { s with
      mode := some readData, responder := s.responder.map (latched s.cfg (s.ca ++ r)) } i := by
  rw [readByte, readSeq_bits, latchSeq_eq, composite_eq]
  exact bitRead_congr i rfl rfl rfl rfl

/-- The byte WTR answers: line by line what the bus answers in READ_DATA after the write (R201). -/
theorem wtr_bits (r : Nibble) (d : Byte) (s : State) (i : Fin 8) :
    (wtrBody r d s).1.getLsbD i = bitRead { s with
      mode := some readData
      responder := s.responder.map fun rr => stored s.cfg d (latched s.cfg (s.ca ++ r) rr) } i := by
  rw [wtrBody_bits, wtrResponder, composite_eq]

/-- Settles O23: from REST the effect of LATCH leaves the mode as it was. -/
theorem latchLatchesAddress : Obligations.LatchLatchesAddress := by
  intro s r hvalid hs
  refine ⟨packByte_zero_eq_or _ r, startsAtRest_checksEntry rfl hs, fun hrest => ?_⟩
  rw [exec_atRest rfl hrest, effect_latch hvalid, ← hrest.2]

/-- Settles O24: from REST the effect of WRITE leaves the mode as it was. -/
theorem writePulsesTheByte : Obligations.WritePulsesTheByte := by
  intro s r d hvalid hs
  refine ⟨packByte_eq_or _ r d, startsAtRest_checksEntry rfl hs, fun hrest => ?_⟩
  rw [exec_atRest rfl hrest, effect_write hvalid, ← hrest.2]

/-- Settles O25: the byte is ReadSeq's, and from REST the effect of READ leaves the mode as it was. -/
theorem readAnswersTheBus : Obligations.ReadAnswersTheBus := by
  intro s r hvalid hs
  refine ⟨packByte_zero_eq_or _ r, startsAtRest_checksEntry rfl hs, fun hrest => ⟨_, read_bits r s, ?_⟩⟩
  rw [exec_atRest rfl hrest, effect_read hvalid, ← hrest.2]

/-- Settles O26: the byte is WtrBody's, and from REST the effect of WTR leaves the mode as it was. -/
theorem wtrWritesThenReads : Obligations.WtrWritesThenReads := by
  intro s r d hvalid hs
  refine ⟨packByte_eq_or _ r d, startsAtRest_checksEntry rfl hs, fun hrest => ⟨_, wtr_bits r d s, ?_⟩⟩
  rw [exec_atRest rfl hrest, effect_wtr hvalid, ← hrest.2]

/-- Settles O42: the effect of a transaction ends at REST (R206), and its last turn of the bus gives the direction. -/
theorem transactionsEndAtRest : Obligations.TransactionsEndAtRest := by
  intro i s t h hrun
  obtain ⟨-, rfl⟩ := exec_running h hrun
  have hmode : ∀ {i}, startsAtRest i = true → (effectOf i s).mode = some rest := fun hi =>
    (effect_endsAtRest hi s).1
  refine ⟨?_, ?_⟩
  · rintro ⟨r, rfl⟩
    exact ⟨hmode rfl, by simp [effectOf, latchSeq_eq]⟩
  · rintro (⟨r, d, rfl⟩ | ⟨r, rfl⟩ | ⟨r, d, rfl⟩)
    · exact ⟨hmode rfl, by simp [effectOf, writeSeq_eq]⟩
    · exact ⟨hmode rfl, by simp [effectOf, respondRead, readSeq_state]⟩
    · exact ⟨hmode rfl, by simp [effectOf, respondWtr, wtrBody_state]⟩

/-! The single-bit rule (R205), piece by piece. -/

/-- R205 over a list of events: only Variant B's latch path is excepted. -/
def singleBitRule (v : Variant) (es : List Event) : Prop :=
  ∀ e ∈ es, singleBit e = true ∨ (v = .b ∧ e ∈ latchPathB)

theorem singleBitRule_of_all {v : Variant} {es : List Event} (h : ∀ e ∈ es, singleBit e = true) :
    singleBitRule v es := fun e he => .inl (h e he)

@[simp] theorem singleBitRule_nil (v : Variant) : singleBitRule v [] := singleBitRule_of_all (by simp)

@[simp] theorem singleBitRule_append {v : Variant} {es fs : List Event} :
    singleBitRule v (es ++ fs) ↔ singleBitRule v es ∧ singleBitRule v fs := List.forall_mem_append

@[simp] theorem singleBitRule_cons {v : Variant} {e : Event} {es : List Event} :
    singleBitRule v (e :: es) ↔ (singleBit e = true ∨ (v = .b ∧ e ∈ latchPathB)) ∧ singleBitRule v es :=
  List.forall_mem_cons

@[simp] theorem singleBitRule_busOutEvents (v : Variant) (a : Byte) (d : BusDir) :
    singleBitRule v (busOutEvents a d) :=
  singleBitRule_of_all (by cases d <;> simp [busOutEvents, singleBit])

@[simp] theorem singleBitRule_sampleEvents (v : Variant) (cfg : Config) (b : Byte) :
    singleBitRule v (sampleEvents cfg b) :=
  singleBitRule_of_all (by simp [sampleEvents, singleBit])

@[simp] theorem singleBitRule_pulseEvents (v : Variant) : singleBitRule v pulseEvents :=
  singleBitRule_of_all (by decide)

@[simp] theorem singleBitRule_readEntryEvents (v : Variant) : singleBitRule v readEntryEvents :=
  singleBitRule_of_all (by decide)

@[simp] theorem singleBitRule_readExitEvents (v : Variant) : singleBitRule v readExitEvents :=
  singleBitRule_of_all (by decide)

/-- The latch path takes single-bit edges in Variant A, and is the exception in Variant B. -/
@[simp] theorem singleBitRule_latchPathEvents : ∀ v : Variant, singleBitRule v (latchPathEvents v)
  | .a => singleBitRule_of_all (by decide)
  | .b => fun _ he => .inr ⟨rfl, he⟩

/-- What a transaction appends in a valid configuration keeps the rule. -/
theorem effect_singleBitRule {i : Instr} {s : State} (hvalid : configValid s.cfg = true)
    (hi : (∃ r, i = .latch r) ∨ (∃ r d, i = .write r d) ∨ (∃ r, i = .read r) ∨ (∃ r d, i = .wtr r d)) :
    singleBitRule s.cfg.variant (newEvents s (effectOf i s)) := by
  obtain ⟨r, rfl⟩ | ⟨r, d, rfl⟩ | ⟨r, rfl⟩ | ⟨r, d, rfl⟩ := hi
  · simp [newEvents, effect_latch hvalid]
  · simp [newEvents, effect_write hvalid, singleBit]
  · simp [newEvents, effect_read hvalid, singleBit]
  · simp [newEvents, effect_wtr hvalid, singleBit]

/-- Settles O40: a stop emits nothing, and every piece of a transaction's trace keeps the rule. -/
theorem transactionsAreSingleBit : Obligations.TransactionsAreSingleBit := by
  intro i s t hvalid h hi
  have hrule : singleBitRule s.cfg.variant (newEvents s t) :=
    exec_rule (P := fun t => singleBitRule s.cfg.variant (newEvents s t)) h (fun _ => by simp [newEvents])
      (fun _ => by simp [newEvents]) fun _ _ => effect_singleBitRule hvalid hi
  refine ⟨fun hv e he => ?_, fun hv e he => ?_⟩
  · simpa [hv] using hrule e he
  · simpa [hv] using hrule e he

/-! Critical sections (R207), over any trace. -/

/-- An event that neither opens nor closes a section, nor needs one. -/
def outsideSections : Event → Bool
  | .crit _ _ | .holdWrite => false
  | _ => true

/-- Such events may stand anywhere in a trace. -/
theorem critDisciplined_skip {es : List Event} (h : ∀ e ∈ es, outsideSections e = true) (o : Option Bool)
    (fs : List Event) : critDisciplined o (es ++ fs) = critDisciplined o fs := by
  induction es with
  | nil => rfl
  | cons e es ih =>
    obtain ⟨he, hes⟩ := List.forall_mem_cons.1 h
    rw [← ih hes]
    cases e
    case crit | holdWrite => cases he
    all_goals cases o <;> rfl

/-- A trace of such events alone opens no section. -/
theorem critDisciplined_of_outside {es : List Event} (h : ∀ e ∈ es, outsideSections e = true) :
    critDisciplined none es = true := by
  simpa [critDisciplined] using critDisciplined_skip h none []

/-- A trace that ends with no section open may be continued by one that starts with none. -/
theorem critDisciplined_append {o : Option Bool} {es fs : List Event} (he : critDisciplined o es = true)
    (hf : critDisciplined none fs = true) : critDisciplined o (es ++ fs) = true := by
  -- one case per equation of `critDisciplined`, in their order
  fun_induction critDisciplined o es
  case case1 => exact hf
  case case2 | case4 | case5 | case6 => cases he
  case case3 ih => exact ih he
  case case7 ih =>
    obtain ⟨hie, hes⟩ := Bool.and_eq_true_iff.1 he
    exact Bool.and_eq_true_iff.2 ⟨hie, ih hes⟩
  case case8 ih => simp [critDisciplined, *]

theorem outsideSections_busOutEvents (a : Byte) (d : BusDir) : ∀ e ∈ busOutEvents a d, outsideSections e = true := by
  cases d <;> simp [busOutEvents, outsideSections]

theorem outsideSections_busInEvents (d : BusDir) : ∀ e ∈ busInEvents d, outsideSections e = true := by
  cases d <;> simp [busInEvents, outsideSections]

theorem outsideSections_edgeEvents (cfg : Config) (src dst : ModeCode) :
    ∀ e ∈ edgeEvents cfg src dst, outsideSections e = true := by simp [edgeEvents, outsideSections]

theorem outsideSections_sampleEvents (cfg : Config) (b : Byte) :
    ∀ e ∈ sampleEvents cfg b, outsideSections e = true := by simp [sampleEvents, outsideSections]

theorem outsideSections_latchEvents (cfg : Config) : ∀ e ∈ latchEvents cfg, outsideSections e = true := by
  cases hv : cfg.variant <;> simp [latchEvents, hv, edgeEvents, outsideSections]

theorem outsideSections_beginEvents (s : State) : ∀ e ∈ beginEvents s, outsideSections e = true := by
  by_cases hm : s.mode = some rest <;> by_cases hr : s.cfg.resetConn = true <;>
    simp [beginEvents, returnEvents, resetEvents, hm, hr, outsideSections]

/-- The section of WRITE: the pulse alone. -/
theorem critDisciplined_pulseSectionEvents (cfg : Config) (ie : Bool) (d : Byte) :
    critDisciplined none (pulseSectionEvents cfg ie d) = true := by
  simp [pulseSectionEvents, critDisciplined, critDisciplined_skip (outsideSections_edgeEvents _ _ _)]

/-- The section of WTR: all of it. -/
theorem critDisciplined_wtrEvents (cfg : Config) (ie : Bool) (a : Byte) (dir : BusDir) (d b : Byte) :
    critDisciplined none (wtrEvents cfg ie a dir d b) = true := by
  simp [wtrEvents, critDisciplined, critDisciplined_skip (outsideSections_busOutEvents _ _),
    critDisciplined_skip (outsideSections_latchEvents _), critDisciplined_skip (outsideSections_edgeEvents _ _ _),
    critDisciplined_skip (outsideSections_sampleEvents _ _)]

/-- Every piece of a trace is disciplined, so every trace is. -/
theorem critDisciplined_pieces (s : State) : HoldsOfPieces (critDisciplined none · = true) s where
  none := rfl
  append _ _ := critDisciplined_append
  busOut a d := critDisciplined_of_outside (outsideSections_busOutEvents a d)
  busIn d := critDisciplined_of_outside (outsideSections_busInEvents d)
  edge src dst := critDisciplined_of_outside (outsideSections_edgeEvents s.cfg src dst)
  coarse _ _ := rfl
  samples b := critDisciplined_of_outside (outsideSections_sampleEvents s.cfg b)
  latch := critDisciplined_of_outside (outsideSections_latchEvents s.cfg)
  begins := critDisciplined_of_outside (outsideSections_beginEvents s)
  pulse := critDisciplined_pulseSectionEvents s.cfg s.hostIe
  wtr := critDisciplined_wtrEvents s.cfg s.hostIe

/-- Settles O41: every piece of a command's trace is disciplined, and no command writes `host_ie` for good. -/
theorem criticalSectionsAreDisciplined : Obligations.CriticalSectionsAreDisciplined := fun _ s _ h =>
  ⟨exec_events (critDisciplined_pieces s) h, exec_hostIe h⟩

/-! A write read back through the reference responder (R208, R209). -/

/-- A transaction or a discovery leaves the block where another may start. -/
theorem effect_atRest {i : Instr} {s : State} (h : startsAtRest i = true) (hs : s.atRest) : (effectOf i s).atRest := by
  obtain ⟨⟨hrun, hi⟩, -⟩ := hs
  obtain ⟨hm, -⟩ := effect_endsAtRest h s
  exact ⟨⟨(effect_stop i s).trans hrun, (effect_init (by rintro rfl; cases h) s).trans hi⟩, hm⟩

/-- READ latches and stores nothing (R199). -/
theorem read_responder (r : Nibble) (s : State) :
    (effectOf (.read r) s).responder = s.responder.map (latched s.cfg (s.ca ++ r)) := by
  simp [effectOf, respondRead, readSeq_state, latchSeq_eq, composite_eq]

/-- READ after WRITE at the same register: the second latch changes nothing. -/
theorem read_write_responder (r : Nibble) (d : Byte) (s : State) :
    (effectOf (.write r d) s).responder.map (latched s.cfg (s.ca ++ r)) =
      s.responder.map fun rr => stored s.cfg d (latched s.cfg (s.ca ++ r) rr) := by
  simp [write_responder (.inl rfl), Function.comp_def, latched_stored]

/-- What WRITE leaves for the next command to start from, but for the mode, the bus, the trace and the responder. -/
theorem write_keeps (r : Nibble) (d : Byte) (s : State) :
    (effectOf (.write r d) s).cfg = s.cfg ∧ (effectOf (.write r d) s).ca = s.ca ∧
      (effectOf (.write r d) s).draws = s.draws := by
  simp [effectOf, writeSeq_eq]

/-- The byte READ answers after WRITE at the same register. -/
theorem read_write_bits (r : Nibble) (d : Byte) (s : State) (i : Fin 8) :
    (readByte r (effectOf (.write r d) s)).getLsbD i = bitRead { s with
      mode := some readData
      responder := s.responder.map fun rr => stored s.cfg d (latched s.cfg (s.ca ++ r) rr) } i := by
  obtain ⟨hcfg, hca, hdraws⟩ := write_keeps r d s
  rw [read_bits, hcfg, hca, read_write_responder]
  exact bitRead_congr i rfl rfl rfl hdraws

/-- WRITE, then READ at the same register, from REST. -/
theorem exec_write_read {s : State} (hs : s.atRest) (r : Nibble) (d : Byte) :
    exec (.write r d) s = .next (effectOf (.write r d) s) ∧
      exec (.read r) (effectOf (.write r d) s) = .next (effectOf (.read r) (effectOf (.write r d) s)) :=
  ⟨exec_atRest rfl hs, exec_atRest rfl (effect_atRest rfl hs)⟩

/-- A byte is known by its bits on the eight data lines. -/
theorem byte_ext {v w : Byte} (h : ∀ i : Fin 8, v.getLsbD i = w.getLsbD i) : v = w :=
  BitVec.eq_of_getLsbD_eq fun i hi => h ⟨i, hi⟩

/-- WTR enters its section before its first output. -/
theorem wtr_trace_opens (r : Nibble) (d : Byte) (s : State) :
    ∃ es, (effectOf (.wtr r d) s).trace = s.trace ++ .crit .enter s.hostIe :: es := by
  simp [effectOf, respondWtr, wtrBody_state]

/-- WRITE drives the address first. -/
theorem write_trace_opens (r : Nibble) (d : Byte) (s : State) :
    ∃ es, (effectOf (.write r d) s).trace = s.trace ++ .drive (composite s.ca r) :: es := by
  cases hd : s.dbusDir <;> simp [effectOf, writeSeq_eq, hd, busOutEvents]

/-- Settles O48: both latch the same address and store the same byte, so the bus answers both reads alike; but WTR's
trace opens with its section and WRITE's with a DRIVE. -/
theorem wtrEqualsWriteThenRead : Obligations.WtrEqualsWriteThenRead := by
  intro s rr r d hs _
  obtain ⟨hwrite, hread⟩ := exec_write_read hs r d
  obtain ⟨hcfg, hca, -⟩ := write_keeps r d s
  refine ⟨_, _, _, exec_atRest rfl hs, hwrite, hread, ?_, ?_, ?_⟩
  · have hbyte : (wtrBody r d s).1 = readByte r (effectOf (.write r d) s) :=
      byte_ext fun i => (wtr_bits r d s i).trans (read_write_bits r d s i).symm
    exact congrArg Response.byte hbyte
  · rw [write_responder (.inr rfl), read_responder, hcfg, hca, read_write_responder]
  · obtain ⟨es, hes⟩ := wtr_trace_opens r d s
    obtain ⟨fs, hfs⟩ := write_trace_opens r d s
    obtain ⟨-, -, -, -, -, gs, hgs⟩ := effect_keeps (.read r) (effectOf (.write r d) s)
    simp [hes, hgs, hfs]

@[simp] theorem Responder.store_selected (a : Responder) (b : Byte) : (a.store b).selected = a.selected := by
  simp [Responder.selected, Responder.laChip]

@[simp] theorem Responder.store_laReg (a : Responder) (b : Byte) : (a.store b).laReg = a.laReg := by
  simp [Responder.laReg]

/-- A selected responder answers what it has kept of the byte stored last (R79, R80). -/
theorem Responder.answer_store {a : Responder} (hsel : a.selected = true) (w : a.regs.wf = true) (d : Byte) (i : Nat) :
    (a.store d).answer (some readData) i = (a.kept a.laReg d).getLsbD i := by
  obtain ⟨-, hkept⟩ := Responder.store_frame a d w
  simp [Responder.answer, Responder.reg, hsel, hkept hsel]

/-- So does a responder whose own address is latched before the store, with every data line connected (R77, R78). -/
theorem stored_answer {cfg : Config} {rr : Responder} (hc : cfg.dataConn = 0xFF) (w : rr.regs.wf = true) (r : Nibble)
    (d : Byte) (i : Nat) :
    (stored cfg d (latched cfg (rr.addr ++ r) rr)).answer (some readData) i = (rr.kept r d).getLsbD i := by
  obtain ⟨hchip, hreg⟩ := address_parts rr.addr r
  have hsel : (rr.latch (rr.addr ++ r)).selected = true := by simp [Responder.selected, Responder.laChip, hchip]
  have hlaReg : (rr.latch (rr.addr ++ r)).laReg = r := hreg
  simp only [stored, latched, seen_connected _ _ hc]
  rw [Responder.answer_store hsel w, hlaReg]
  rfl

theorem lineConnected_all {cfg : Config} (h : cfg.dataConn = 0xFF) (i : Fin 8) : lineConnected cfg i = true := by
  rw [lineConnected, h]
  revert i
  decide

/-- R63: an 8-bit register keeps every bit. -/
theorem kept_full {r : Nibble} (h : regWidth r = 8) (rr : Responder) (d : Byte) : rr.kept r d = d := by
  have hmask : regMask r = BitVec.allOnes 8 := by rw [regMask, h]; rfl
  rw [Responder.kept, hmask, BitVec.and_allOnes, ite_self]

theorem kept_masked {rr : Responder} (h : rr.mask = true) (r : Nibble) (d : Byte) : rr.kept r d = d &&& regMask r :=
  if_pos h

/-- The byte READ answers after WRITE to the responder's own register. -/
theorem read_write_byte {s : State} {rr : Responder} (hr : s.responder = some rr) (haddr : rr.addr = s.ca)
    (hc : s.cfg.dataConn = 0xFF) (w : rr.regs.wf = true) (r : Nibble) (d : Byte) :
    readByte r (effectOf (.write r d) s) = rr.kept r d := by
  refine byte_ext fun i => ?_
  rw [read_write_bits, ← haddr, ← stored_answer hc w r d i]
  simp [bitRead, lineConnected_all hc, hr]

/-- Settles O49: READ answers what the responder keeps of the byte, and that is all of it or its masked part. -/
theorem writeReadRoundTrip : Obligations.WriteReadRoundTrip := by
  intro s rr r d hs hr haddr hc w
  obtain ⟨hwrite, hread⟩ := exec_write_read hs r d
  have hresp : (effectOf (.read r) (effectOf (.write r d) s)).resp = .byte (rr.kept r d) :=
    congrArg Response.byte (read_write_byte hr haddr hc w r d)
  exact ⟨_, _, hwrite, hread, fun h => by rw [hresp, kept_full h], fun _ hm => by rw [hresp, kept_masked hm]⟩

end Sys2Proof.Machine
end

section
/-! PROOFS. The statements of 43_chip_address: SETCA, GETCA and FINDCA. FINDCA is shown once to be an ascending scan of
WTRs; what it finds and what it leaves in the reference responder are read off that chain. -/

namespace Sys2Proof.Machine

/-! SETCA and GETCA (R220, R223): neither has a check that could stop it. -/

/-- Keeping the top nibble of a byte clears the low one (R220, R223). -/
theorem chipAddressByte_topNibble (x : Byte) : chipAddressByte (topNibble x) = x &&& 0xF0 := by
  revert x; decide

/-- Settles O27: SETCA's one write is `ca`, and the GETCA after it reads that back. -/
theorem setcaKeepsTopNibble : Obligations.SetcaKeepsTopNibble := by
  intro s x hs
  refine ⟨by simp [encode, packByte_eq_or], _, exec_completes hs rfl rfl, rfl, ?_⟩
  rw [← chipAddressByte_topNibble]
  exact exec_completes (i := .getca) hs rfl rfl

/-- Settles O28: GETCA's effect is its response alone. -/
theorem getcaAnswersChipAddress : Obligations.GetcaAnswersChipAddress := by
  refine ⟨by decide, fun s hs => ?_⟩
  rw [← chipAddressByte_eq]
  exact exec_completes (i := .getca) hs rfl rfl

/-! The chip address (R29, R230). -/

@[simp] theorem coarseChange_ca (m : ModeCode) (s : State) : (coarseChange m s).ca = s.ca := by
  by_cases h : s.mode = some m <;> simp [coarseChange, h]

/-- Only SETCA ends with another `ca` (R230). -/
theorem effect_ca {i : Instr} (hi : ∀ x, i ≠ .setca x) (s : State) : (effectOf i s).ca = s.ca := by
  cases i <;> simp only [effectOf]
  case setca x => exact absurd rfl (hi x)
  case findca => rfl
  all_goals simp [initialise_eq, latchSeq_eq, writeSeq_eq, respondRead, readSeq_state, respondWtr, wtrBody_state,
    busOut_eq, busIn_eq, respondSampled, sampleByte_state]

/-- Settles O38: a stop does not write `ca`, and SETCA's effect is the only one that leaves another. -/
theorem onlySetcaMovesTheChipAddress : Obligations.OnlySetcaMovesTheChipAddress := fun _ s _ h hi =>
  exec_rule (P := fun t => t.ca = s.ca) h (fun _ => rfl) (fun _ => rfl) fun _ _ => effect_ca hi s

/-- Settles O29: TxCheck passes at REST, and FINDCA's effect is its frame. -/
theorem findcaCompletesAndRestores : Obligations.FindcaCompletesAndRestores := by
  intro s hs
  obtain ⟨es, rr, dr, r, hframe, hr⟩ := discover_frame s
  refine ⟨_, exec_atRest rfl hs, ?_, ?_, ?_⟩
  · simp only [effectOf, hframe, hs.2]
  · simp only [effectOf, hframe]
    exact ⟨es, rfl⟩
  · simpa only [effectOf, hframe] using hr

/-! The scan as a chain of WTRs (R226 to R228). -/

/-- The states of one WTR of the sentinel per candidate, ascending from candidate 0. -/
def wtrChain (s : State) : Nat → State
  | 0 => s
  | k + 1 => effectOf (.wtr s.cfg.scanReg s.cfg.scanSentinel) { wtrChain s k with ca := BitVec.ofNat 4 k }

@[simp] theorem wtrChain_cfg (s : State) (k : Nat) : (wtrChain s k).cfg = s.cfg := by
  induction k with
  | zero => rfl
  | succ k ih => exact (effect_cfg _ _).trans ih

@[simp] theorem wtrChain_cand (s : State) (k : Nat) : (wtrChain s k).cand = s.cand := by
  induction k with
  | zero => rfl
  | succ k ih => simp [wtrChain, effectOf, respondWtr, wtrBody_state, ih]

theorem wtrChain_atRest {s : State} (hs : s.atRest) (k : Nat) : (wtrChain s k).atRest := by
  induction k with
  | zero => exact hs
  | succ k ih => exact effect_atRest (s := { wtrChain s k with ca := BitVec.ofNat 4 k }) rfl ih

/-- WtrBody reads none of `resp`, `upc` and `cand`: started with others it answers the same byte and, but for them,
leaves the same state. -/
theorem wtrBody_blind (r : Nibble) (d : Byte) (s : State) (a : Response) (u : Nat) (c : BitVec 5) :
    ∃ u', wtrBody r d { s with resp := a, upc := u, cand := c } =
      ((wtrBody r d s).1, { (wtrBody r d s).2 with resp := a, upc := u', cand := c }) := by
  have hbyte : (wtrBody r d { s with resp := a, upc := u, cand := c }).1 = (wtrBody r d s).1 :=
    byte_ext fun i => by rw [wtrBody_bits, wtrBody_bits]; exact bitRead_congr i rfl rfl rfl rfl
  refine ⟨(wtrBody r d { s with resp := a, upc := u, cand := c }).2.upc, Prod.ext hbyte ?_⟩
  simp only [wtrBody_state, hbyte]
  rfl

/-- `t` is the state of the scan from `s` that has tried `k` candidates: that of `k` WTRs but for what a command writes
at its end (`resp`, `upc`) and for the counter. -/
def Scanned (s : State) (k : Nat) (t : State) : Prop :=
  ∃ u, t = { wtrChain s k with resp := s.resp, upc := u, cand := BitVec.ofNat 5 k }

theorem scanned_zero (s : State) : Scanned s 0 { s with cand := 0 } := ⟨s.upc, rfl⟩

theorem candidateNibble_ofNat (k : Nat) : candidateNibble (BitVec.ofNat 5 k) = BitVec.ofNat 4 k := by
  apply BitVec.eq_of_toNat_eq
  simp [candidateNibble]

theorem Scanned.cfg {s t : State} {k : Nat} (h : Scanned s k t) : t.cfg = s.cfg := by
  obtain ⟨u, rfl⟩ := h
  exact wtrChain_cfg s k

theorem Scanned.cand {s t : State} {k : Nat} (h : Scanned s k t) : t.cand = BitVec.ofNat 5 k := by
  obtain ⟨u, rfl⟩ := h
  rfl

theorem Scanned.probe_eq {s t : State} {k : Nat} (h : Scanned s k t) :
    probe t = wtrBody s.cfg.scanReg s.cfg.scanSentinel { t with ca := BitVec.ofNat 4 k } := by
  rw [probe, h.cfg, h.cand, candidateNibble_ofNat]

/-- One candidate is one WTR: it answers the byte WTR does, and leaves the scan one candidate further. -/
theorem Scanned.step {s t : State} {k : Nat} (h : Scanned s k t) :
    (wtrChain s (k + 1)).resp = .byte (probe t).1 ∧
      Scanned s (k + 1) { (probe t).2 with cand := (probe t).2.cand + 1 } := by
  have hprobe := h.probe_eq
  obtain ⟨u, rfl⟩ := h
  obtain ⟨u', hbody⟩ := wtrBody_blind s.cfg.scanReg s.cfg.scanSentinel { wtrChain s k with ca := BitVec.ofNat 4 k }
    s.resp u (BitVec.ofNat 5 k)
  rw [hprobe.trans hbody]
  refine ⟨rfl, u', ?_⟩
  simp only [BitVec.ofNat_add]
  rfl

/-- Candidate `k`'s WTR answers the sentinel. -/
def matchesAt (s : State) (k : Nat) : Prop := (wtrChain s (k + 1)).resp = .byte s.cfg.scanSentinel

theorem Scanned.probe_matches_iff {s t : State} {k : Nat} (h : Scanned s k t) :
    (probe t).1 = t.cfg.scanSentinel ↔ matchesAt s k := by
  obtain ⟨hresp, -⟩ := h.step
  simp [matchesAt, hresp, h.cfg]

theorem Scanned.cand_lt {s t : State} {k : Nat} (h : Scanned s k t) (hk : k < 16) : t.cand < 16 := by
  rw [h.cand, BitVec.lt_def, BitVec.toNat_ofNat]
  exact Nat.lt_of_le_of_lt (Nat.mod_le _ _) hk

/-- A candidate that does not match is passed over. -/
theorem Scanned.scan_passes {s t : State} {n k : Nat} (h : Scanned s k t) (hk : k < 16) (hm : ¬ matchesAt s k) :
    ∃ t', Scanned s (k + 1) t' ∧ scan (n + 1) t = scan n t' := by
  obtain ⟨-, hnext⟩ := h.step
  exact ⟨_, hnext, by rw [scan_succ (h.cand_lt hk), if_neg (mt h.probe_matches_iff.1 hm)]⟩

/-- While no candidate matches the scan goes on. -/
theorem scan_passes_all {s : State} {k : Nat} (hk : k ≤ 16) (hm : ∀ j < k, ¬ matchesAt s j) :
    ∃ t, Scanned s k t ∧ scan 16 { s with cand := 0 } = scan (16 - k) t := by
  induction k with
  | zero => exact ⟨_, scanned_zero s, rfl⟩
  | succ k ih =>
    obtain ⟨t, ht, heq⟩ := ih (by omega) fun j hj => hm j (by omega)
    obtain ⟨t', ht', heq'⟩ := ht.scan_passes (n := 16 - (k + 1)) hk (hm k (by omega))
    exact ⟨t', ht', by rw [heq, ← heq']; congr 1; omega⟩

/-- What FINDCA makes of its scan: the chip address of before, `cand` and `upc` at 0, and the response. -/
theorem Scanned.closed {s t : State} {k : Nat} (h : Scanned s k t) (r : Response) :
    respond r { t with ca := s.ca, cand := 0 } =
      { wtrChain s k with ca := s.ca, cand := 0, upc := 0, resp := r } := by
  obtain ⟨u, rfl⟩ := h
  rfl

/-- FINDCA stops at the first candidate that matches (R227). -/
theorem discover_found {s : State} {k : Nat} (hk : k < 16) (hm : matchesAt s k) (hfirst : ∀ j < k, ¬ matchesAt s j) :
    discover s = { wtrChain s (k + 1) with
      ca := s.ca, cand := 0, upc := 0, resp := .found (BitVec.ofNat 4 k ++ 0#4) } := by
  obtain ⟨t, ht, heq⟩ := scan_passes_all hk.le hfirst
  obtain ⟨-, hnext⟩ := ht.step
  have hscan : scan 16 { s with cand := 0 } = (.found (BitVec.ofNat 4 k ++ 0#4), (probe t).2) := by
    rw [heq, show 16 - k = (15 - k) + 1 by omega, scan_succ (ht.cand_lt hk), if_pos (ht.probe_matches_iff.2 hm),
      ht.cand, candidateNibble_ofNat, chipAddressByte_eq]
  exact (discover_eq hscan).trans (hnext.closed _)

/-- With no match FINDCA tries all 16 candidates (R226). -/
theorem discover_notFound {s : State} (hm : ∀ k < 16, ¬ matchesAt s k) :
    discover s = { wtrChain s 16 with ca := s.ca, cand := 0, upc := 0, resp := .notFound } := by
  obtain ⟨t, ht, heq⟩ := scan_passes_all le_rfl hm
  exact (discover_eq (heq.trans rfl)).trans (ht.closed _)

/-- A chain of WTR commands is the chain of their effects. -/
theorem chain_eq_wtrChain {s : State} {chain : Nat → State} (hs : s.atRest) (h0 : chain 0 = s)
    (hstep : ∀ k < 16, exec (.wtr s.cfg.scanReg s.cfg.scanSentinel) { chain k with ca := BitVec.ofNat 4 k } =
      .next (chain (k + 1))) {k : Nat} (hk : k ≤ 16) : chain k = wtrChain s k := by
  induction k with
  | zero => exact h0
  | succ k ih =>
    have hexec := hstep k hk
    rw [ih (by omega)] at hexec
    have hrest : State.atRest { wtrChain s k with ca := BitVec.ofNat 4 k } := wtrChain_atRest hs k
    exact Host.Outcome.next.inj (hexec.symm.trans (exec_atRest rfl hrest))

/-- After a WTR `upc` is 0 and `cand` that of before, so a settled block needs neither reset. -/
theorem wtrChain_closed {s : State} (hs : s.settled) (k : Nat) (r : Response) :
    { wtrChain s (k + 1) with ca := s.ca, cand := 0, upc := 0, resp := r } =
      { wtrChain s (k + 1) with ca := s.ca, resp := r } := by
  obtain ⟨-, -, hcand⟩ := hs
  dsimp only
  rw [wtrChain_cand, hcand]
  rfl

/-- Settles O30: the commands of the chain take their effects, and FINDCA's effect is read off those. -/
theorem findcaIsAscendingScanOfWtr : Obligations.FindcaIsAscendingScanOfWtr := by
  intro s chain hs hsettled h0 hstep
  have hchain {k : Nat} (hk : k ≤ 16) : chain k = wtrChain s k := chain_eq_wtrChain hs h0 hstep hk
  have hmatch {k : Nat} (hk : k < 16) : (chain (k + 1)).resp = .byte s.cfg.scanSentinel ↔ matchesAt s k := by
    rw [hchain hk, matchesAt]
  rw [exec_atRest rfl hs]
  refine ⟨fun k hk hfirst hm => ?_, fun hm => ?_⟩
  · have hfirst' : ∀ j < k, ¬ matchesAt s j := fun j hj => mt (hmatch (hj.trans hk)).2 (hfirst j hj)
    rw [hchain hk, ← wtrChain_closed hsettled]
    exact congrArg Host.Outcome.next (discover_found hk ((hmatch hk).1 hm) hfirst')
  · rw [hchain le_rfl, ← wtrChain_closed hsettled]
    exact congrArg Host.Outcome.next (discover_notFound fun k hk => mt (hmatch hk).2 (hm k hk))

/-! The reference responder under the scan (R77 to R80, R229). Every candidate's latch addresses the same register, so
what the scan leaves there depends only on whether one of the latches selected the responder. -/

@[simp] theorem latched_addr (cfg : Config) (a : Byte) (rr : Responder) : (latched cfg a rr).addr = rr.addr := rfl
@[simp] theorem latched_float (cfg : Config) (a : Byte) (rr : Responder) : (latched cfg a rr).float = rr.float := rfl
@[simp] theorem latched_mask (cfg : Config) (a : Byte) (rr : Responder) : (latched cfg a rr).mask = rr.mask := rfl
@[simp] theorem latched_regs (cfg : Config) (a : Byte) (rr : Responder) : (latched cfg a rr).regs = rr.regs := rfl

/-- The responder after the first `k` candidates, each of which latches its address and stores the sentinel. -/
def probedBy (cfg : Config) (rr : Responder) : Nat → Responder
  | 0 => rr
  | k + 1 => stored cfg cfg.scanSentinel (latched cfg (BitVec.ofNat 4 k ++ cfg.scanReg) (probedBy cfg rr k))

theorem wtrChain_responder {s : State} {rr : Responder} (h : s.responder = some rr) (k : Nat) :
    (wtrChain s k).responder = some (probedBy s.cfg rr k) := by
  induction k with
  | zero => exact h
  | succ k ih => simp [wtrChain, write_responder (.inr rfl), ih, probedBy]

/-- The scan keeps the responder's parameters. -/
theorem probedBy_parameters (cfg : Config) (rr : Responder) (k : Nat) :
    (probedBy cfg rr k).addr = rr.addr ∧ (probedBy cfg rr k).float = rr.float ∧ (probedBy cfg rr k).mask = rr.mask := by
  induction k with
  | zero => exact ⟨rfl, rfl, rfl⟩
  | succ k ih => simpa [probedBy, stored] using ih

theorem probedBy_kept (cfg : Config) (rr : Responder) (k : Nat) : (probedBy cfg rr k).kept = rr.kept := by
  obtain ⟨-, -, hmask⟩ := probedBy_parameters cfg rr k
  unfold Responder.kept
  rw [hmask]

theorem probedBy_wf {rr : Responder} (w : rr.regs.wf = true) (cfg : Config) (k : Nat) :
    (probedBy cfg rr k).regs.wf = true := by
  induction k with
  | zero => exact w
  | succ k ih => exact Responder.store_wf _ _ ih

/-- What a responder makes of a latch and a store is fixed by its parameters: the latched address, whether that
selects it, the byte it sees and what it keeps of it. -/
theorem latched_congr {cfg : Config} {q rr : Responder} (h : q.addr = rr.addr ∧ q.float = rr.float ∧ q.mask = rr.mask)
    (a : Byte) :
    (latched cfg a q).selected = (latched cfg a rr).selected ∧ (latched cfg a q).laReg = (latched cfg a rr).laReg ∧
      (∀ level, (latched cfg a q).seen cfg.dataConn level = rr.seen cfg.dataConn level) ∧
      ∀ r b, (latched cfg a q).kept r b = rr.kept r b := by
  obtain ⟨haddr, hfloat, hmask⟩ := h
  simp [Responder.selected, Responder.laChip, Responder.laReg, Responder.seen, Responder.kept, latched, haddr, hfloat,
    hmask]

/-- The register that every candidate's latch addresses: SCAN_REG on the lines with a pin, the floating bus on the
others. -/
def probedReg (cfg : Config) (rr : Responder) : Nibble :=
  (cfg.scanReg &&& cfg.dataConn.extractLsb' 0 4) ||| (rr.float &&& ~~~cfg.dataConn).extractLsb' 0 4

theorem latched_laReg (cfg : Config) (rr : Responder) (k : Nibble) :
    (latched cfg (k ++ cfg.scanReg) rr).laReg = probedReg cfg rr := by
  obtain ⟨-, hreg⟩ := address_parts k cfg.scanReg
  simp only [Responder.laReg, latched, Responder.latch_la, Responder.seen, probedReg, BitVec.extractLsb'_or,
    BitVec.extractLsb'_and, hreg]

/-- With pins on D0 to D3 that register is SCAN_REG (R295). -/
theorem probedReg_connected {cfg : Config} (h : cfg.dataConn &&& 0x0F = 0x0F) (rr : Responder) :
    probedReg cfg rr = cfg.scanReg := by
  have hpins : cfg.dataConn.extractLsb' 0 4 = BitVec.allOnes 4 ∧ (~~~cfg.dataConn).extractLsb' 0 4 = 0#4 := by
    generalize cfg.dataConn = conn at h ⊢
    revert conn
    decide
  obtain ⟨hconnected, hfloating⟩ := hpins
  simp only [probedReg, BitVec.extractLsb'_and, hconnected, hfloating, BitVec.and_allOnes, BitVec.and_zero,
    BitVec.or_zero]

/-- The byte that the responder keeps of the sentinel (R77, R79). -/
def keptSentinel (cfg : Config) (rr : Responder) : Byte :=
  rr.kept (probedReg cfg rr) (rr.seen cfg.dataConn cfg.scanSentinel)

/-- Candidate `k`'s latch selects the responder (R79). -/
def probeSelects (cfg : Config) (rr : Responder) (k : Nibble) : Bool :=
  (latched cfg (k ++ cfg.scanReg) rr).selected

/-- What one candidate leaves in the register file. -/
theorem probedBy_succ_read {rr : Responder} (w : rr.regs.wf = true) (cfg : Config) (k x : Nat) :
    (probedBy cfg rr (k + 1)).regs.read x =
      if probeSelects cfg rr (BitVec.ofNat 4 k) = true ∧ x = (probedReg cfg rr).toNat then keptSentinel cfg rr
      else (probedBy cfg rr k).regs.read x := by
  obtain ⟨hsel, hreg, hseen, hkept⟩ := latched_congr (cfg := cfg) (probedBy_parameters cfg rr k)
    (BitVec.ofNat 4 k ++ cfg.scanReg)
  rw [probedBy, stored, Responder.store_read (latched cfg _ _) _ (probedBy_wf w cfg k), hsel, hreg, hseen, hkept,
    latched_laReg]
  rfl

/-- What the first `n` candidates leave in the register file: the sentinel where one of them selected the responder,
and all else as before (R229). -/
theorem probedBy_read {rr : Responder} (w : rr.regs.wf = true) (cfg : Config) (n x : Nat) :
    (probedBy cfg rr n).regs.read x =
      if (∃ k < n, probeSelects cfg rr (BitVec.ofNat 4 k) = true) ∧ x = (probedReg cfg rr).toNat then keptSentinel cfg rr
      else rr.regs.read x := by
  induction n with
  | zero => simp [probedBy]
  | succ n ih =>
    simp only [probedBy_succ_read w, ih, Nat.exists_lt_succ_right]
    by_cases hx : x = (probedReg cfg rr).toNat <;> by_cases hsel : probeSelects cfg rr (BitVec.ofNat 4 n) = true <;>
      simp [hx, hsel]

/-- The candidates that a scan with response `r` tried: all of them with no match, else none after the match. -/
def tried (r : Response) (k : Nibble) : Prop := r = .notFound ∨ ∃ c : Nibble, r = .found (c ++ 0#4) ∧ k ≤ c

theorem tried_found_iff (c k : Nibble) : tried (.found (c ++ 0#4)) k ↔ k ≤ c := by
  refine ⟨?_, fun h => .inr ⟨c, rfl, h⟩⟩
  rintro (h | ⟨c', h, hk⟩)
  · cases h
  · have hc : c = c' := by
      rw [← (address_parts c 0#4).1, ← (address_parts c' 0#4).1, Response.found.inj h]
    exact hc ▸ hk

/-- FINDCA tries the first `n` candidates for some `n`, and leaves what that many WTRs make of the responder. -/
theorem discover_tried (s : State) :
    ∃ n, (∀ k : Nibble, tried (discover s).resp k ↔ k.toNat < n) ∧
      (discover s).responder = (wtrChain s n).responder := by
  classical
  by_cases hmatch : ∃ k, k < 16 ∧ matchesAt s k
  · obtain ⟨hk, hm⟩ := Nat.find_spec hmatch
    have hfirst : ∀ j < Nat.find hmatch, ¬ matchesAt s j := fun j hj hj' =>
      Nat.find_min hmatch hj ⟨hj.trans hk, hj'⟩
    rw [discover_found hk hm hfirst]
    refine ⟨Nat.find hmatch + 1, fun k => ?_, rfl⟩
    rw [tried_found_iff, BitVec.le_def, BitVec.toNat_ofNat, Nat.mod_eq_of_lt hk, Nat.lt_succ_iff]
  · have hnone : ∀ k < 16, ¬ matchesAt s k := fun k hk hm => hmatch ⟨k, hk, hm⟩
    rw [discover_notFound hnone]
    exact ⟨16, fun k => ⟨fun _ => k.isLt, fun _ => .inl rfl⟩, rfl⟩

/-- What FINDCA leaves in the register file (R229): the sentinel at the one register where a tried candidate selected
the responder, and all else as before. -/
theorem discover_registers {s : State} {rr : Responder} (hr : s.responder = some rr) (w : rr.regs.wf = true) :
    ∃ rr', (discover s).responder = some rr' ∧
      (∀ k, tried (discover s).resp k → probeSelects s.cfg rr k = true →
        rr'.regs.read (probedReg s.cfg rr).toNat = keptSentinel s.cfg rr) ∧
      (∀ x, x ≠ (probedReg s.cfg rr).toNat ∨ (∀ k, tried (discover s).resp k → probeSelects s.cfg rr k = false) →
        rr'.regs.read x = rr.regs.read x) := by
  obtain ⟨n, htried, hresp⟩ := discover_tried s
  refine ⟨probedBy s.cfg rr n, hresp.trans (wtrChain_responder hr n), fun k hk hsel => ?_, fun x hx => ?_⟩
  · rw [probedBy_read w, if_pos ⟨⟨k.toNat, (htried k).1 hk, by rwa [BitVec.ofNat_toNat, BitVec.setWidth_eq]⟩, rfl⟩]
  · rw [probedBy_read w, if_neg]
    rintro ⟨⟨j, hj, hsel⟩, rfl⟩
    obtain hne | hnone := hx
    · exact hne rfl
    · have hlt : (BitVec.ofNat 4 j).toNat < n := (BitVec.toNat_ofNat _ _).trans_le (Nat.mod_le _ _) |>.trans_lt hj
      exact absurd hsel (by simp [hnone _ ((htried _).2 hlt)])

/-- Settles O52: a stop does not touch the responder, and FINDCA stores only at the register its latches address. -/
theorem findcaKeepsOtherRegisters : Obligations.FindcaKeepsOtherRegisters := by
  intro s t rr hr w h
  refine exec_rule (P := fun t => ∃ rr', t.responder = some rr' ∧ ∀ x,
    (∀ k : Nibble, x ≠ (latched s.cfg (k ++ s.cfg.scanReg) rr).laReg.toNat) → rr'.regs.read x = rr.regs.read x) h
    (fun _ => ⟨rr, hr, fun _ _ => rfl⟩) (fun _ => ⟨rr, hr, fun _ _ => rfl⟩) fun _ _ => ?_
  obtain ⟨rr', hr', -, hkeep⟩ := discover_registers hr w
  exact ⟨rr', hr', fun x hx => hkeep x (.inl (latched_laReg s.cfg rr 0 ▸ hx 0))⟩

/-- Settles O54: the one register that the latches address holds what is kept of the sentinel, and D0 to D3 make it
SCAN_REG. -/
theorem findcaLeavesTheSentinel : Obligations.FindcaLeavesTheSentinel := by
  intro s t rr hs hr w h
  obtain rfl : discover s = t := Host.Outcome.next.inj ((exec_atRest rfl hs).symm.trans h)
  obtain ⟨rr', hr', hstored, hkeep⟩ := discover_registers hr w
  refine ⟨rr', hr', fun k hk hsel => ?_, fun hnone x => hkeep x (.inr hnone), fun hpins k => ?_⟩
  · rw [latched_laReg]
    exact hstored k hk hsel
  · exact (latched_laReg s.cfg rr k).trans (probedReg_connected hpins rr)

/-! Discovery with every data line connected (R229; WE3). -/

theorem selected_connected {cfg : Config} (hc : cfg.dataConn = 0xFF) (rr : Responder) (k r : Nibble) :
    (latched cfg (k ++ r) rr).selected = true ↔ k = rr.addr := by
  obtain ⟨hchip, -⟩ := address_parts k r
  simp [latched, seen_connected _ _ hc, Responder.selected, Responder.laChip, hchip]

/-- WTR answers what the responder at the block's address keeps of the byte, and the floating bus at any other. -/
theorem wtr_byte_connected {s : State} {rr : Responder} (hr : s.responder = some rr) (hc : s.cfg.dataConn = 0xFF)
    (w : rr.regs.wf = true) (r : Nibble) (d : Byte) :
    (wtrBody r d s).1 = if s.ca = rr.addr then rr.kept r d else rr.float := by
  have hbit (i : Fin 8) : (wtrBody r d s).1.getLsbD i =
      (stored s.cfg d (latched s.cfg (s.ca ++ r) rr)).answer (some readData) i := by
    rw [wtr_bits]
    simp [bitRead, lineConnected_all hc, hr]
  split
  case isTrue haddr => exact byte_ext fun i => by rw [hbit, haddr, stored_answer hc w]
  case isFalse haddr =>
    have hsel : ¬ (latched s.cfg (s.ca ++ r) rr).selected = true := mt (selected_connected hc rr _ r).1 haddr
    exact byte_ext fun i => by rw [hbit]; simp [Responder.answer, stored, hsel]

section
variable {s : State} {rr : Responder} (hr : s.responder = some rr) (hc : s.cfg.dataConn = 0xFF)
  (w : rr.regs.wf = true) (hfloat : rr.float ≠ s.cfg.scanSentinel)
  (hkept : rr.kept s.cfg.scanReg s.cfg.scanSentinel = s.cfg.scanSentinel)
include hr hc w hkept

/-- The WTR of candidate `k` answers the sentinel from the responder at that address, and the floating bus at any
other. -/
theorem wtrChain_resp_connected (k : Nat) :
    (wtrChain s (k + 1)).resp = .byte (if BitVec.ofNat 4 k = rr.addr then s.cfg.scanSentinel else rr.float) := by
  obtain ⟨haddr, hfloat, -⟩ := probedBy_parameters s.cfg rr k
  have hbyte := wtr_byte_connected (s := { wtrChain s k with ca := BitVec.ofNat 4 k }) (wtrChain_responder hr k)
    (by simpa using hc) (probedBy_wf w _ k) s.cfg.scanReg s.cfg.scanSentinel
  rw [haddr, hfloat, probedBy_kept, hkept] at hbyte
  exact congrArg Response.byte hbyte

include hfloat

/-- Candidate `k` matches exactly where it is the responder's address. -/
theorem matchesAt_connected (k : Nat) : matchesAt s k ↔ BitVec.ofNat 4 k = rr.addr := by
  rw [matchesAt, wtrChain_resp_connected hr hc w hkept]
  split <;> simp [*]

/-- So FINDCA ends after the WTR of the responder's address. -/
theorem discover_connected :
    discover s = { wtrChain s (rr.addr.toNat + 1) with
      ca := s.ca, cand := 0, upc := 0, resp := .found (rr.addr ++ 0#4) } := by
  have hmatch := matchesAt_connected hr hc w hfloat hkept
  have haddr : BitVec.ofNat 4 rr.addr.toNat = rr.addr := by simp
  have hfirst : ∀ j < rr.addr.toNat, ¬ matchesAt s j := fun j hj hm => by
    have hj' : j % 16 = rr.addr.toNat := congrArg BitVec.toNat ((hmatch j).1 hm)
    omega
  rw [discover_found rr.addr.isLt ((hmatch _).2 haddr) hfirst, haddr]

end

/-- Settles O31: only the responder's own address matches, so FINDCA ends after its WTR, which has left the sentinel in
SCAN_REG. -/
theorem findcaFindsReferenceResponder : Obligations.FindcaFindsReferenceResponder := by
  intro s rr hs hr hc w hfloat hkept
  have hdone := discover_connected hr hc w hfloat hkept
  have haddr : BitVec.ofNat 4 rr.addr.toNat = rr.addr := by simp
  refine ⟨_, probedBy s.cfg rr (rr.addr.toNat + 1), exec_atRest rfl hs, congrArg State.resp hdone, rfl,
    (congrArg State.responder hdone).trans (wtrChain_responder hr _), ?_, fun x => ?_⟩
  · simp [probedBy, haddr, stored, latched, seen_connected _ _ hc]
  · have hsel : ∃ k < rr.addr.toNat + 1, probeSelects s.cfg rr (BitVec.ofNat 4 k) = true :=
      ⟨_, Nat.lt_succ_self _, (selected_connected hc rr _ _).2 haddr⟩
    have hreg : probedReg s.cfg rr = s.cfg.scanReg := probedReg_connected (by rw [hc]; decide) rr
    simp only [probedBy_read w, hsel, true_and, hreg, keptSentinel, seen_connected _ _ hc, hkept]

end Sys2Proof.Machine
end

section
/-! PROOFS. The statements of 44_begin: what one BEGIN does, and that a second one finds nothing left to change. -/

namespace Sys2Proof.Machine

/-- The connected control lines at REST levels, written out: BDIR = 0, BC2 = 1, BC1 = 0 (R241). -/
theorem restLevels_eq (cfg : Config) :
    restLevels cfg = ([(.bdir, false), (.bc2, true), (.bc1, false)] : List (Line × Bool)).filter
      fun p => ctlConn cfg p.1 := rfl

/-- Settles O33: no check can stop BEGIN, and its sequence is one record update. -/
theorem beginInitialises : Obligations.BeginInitialises := by
  refine ⟨by decide, fun s hs => ?_⟩
  rw [exec_begin hs, initialise_eq, restLevels_eq]
  rfl

/-- A BEGIN at REST emits no MODE event (R242). -/
@[simp] theorem returnEvents_rest : returnEvents (some rest) = [] := if_pos rfl

@[simp] theorem Responder.clear_clear (rr : Responder) : rr.clear.clear = rr.clear := rfl

/-- A second reset pulse leaves the responder as the first left it (R81). -/
@[simp] theorem resetResponder_idem (cfg : Config) (rr : Option Responder) :
    resetResponder cfg (resetResponder cfg rr) = resetResponder cfg rr := by
  unfold resetResponder
  split
  · cases rr <;> simp
  · rfl

/-- Every field that BEGIN writes, the trace apart, already has the value BEGIN gives it. -/
structure Begun (s : State) : Prop where
  init : s.init = true
  mode : s.mode = some rest
  dbusDir : s.dbusDir = .input
  resp : s.resp = .none
  upc : s.upc = 0
  responder : resetResponder s.cfg s.responder = s.responder

theorem begun_initialise (s : State) : Begun (respond .none (initialise s)) := by
  rw [initialise_eq]
  exact ⟨rfl, rfl, rfl, rfl, rfl, resetResponder_idem s.cfg s.responder⟩

/-- On such a state BEGIN moves the trace alone (R242). -/
theorem Begun.initialise_eq {s : State} (h : Begun s) :
    respond .none (initialise s) =
      { s with trace := s.trace ++ [.initCtl (restLevels s.cfg)] ++ [.dir .input] ++ resetEvents s.cfg } := by
  obtain ⟨hinit, hmode, hdir, hresp, hupc, hresponder⟩ := h
  rw [Machine.initialise_eq]
  ext1 <;> simp [*]

/-- Settles O34: the first BEGIN leaves a state in which every field but the trace has BEGIN's value. -/
theorem beginIsIdempotent : Obligations.BeginIsIdempotent := by
  intro s t hs h
  have ht : respond .none (initialise s) = t := Host.Outcome.next.inj ((exec_begin hs).symm.trans h)
  have hrun : t.stop = .run := ht ▸ (effect_stop .begin s).trans hs
  have hbegun : Begun t := ht ▸ begun_initialise s
  rw [exec_begin hrun, hbegun.initialise_eq, exec_cfg h]
  rfl

end Sys2Proof.Machine
end

section
/-! PROOFS. The statements of 60_exceptions: construction's errors, what a refusal and a fault leave of the block, and
that nothing follows a stop. -/

namespace Sys2Proof.Machine

/-! Construction (R22, R251). -/

theorem linesConnected_iff {cfg : Config} : linesConnected cfg = true ↔
    (cfg.variant = .a → cfg.bdirConn = true ∧ cfg.bc2Conn = true ∧ cfg.bc1Conn = true) ∧
      (cfg.variant = .b → cfg.bdirConn = true ∧ cfg.bc1Conn = true) := by
  cases hv : cfg.variant <;> simp [linesConnected, hv, and_assoc]

theorem coarseWhereNeeded_iff {cfg : Config} :
    coarseWhereNeeded cfg = true ↔ (cfg.variant = .b → cfg.coarseEdgesOk = true) := by
  cases hv : cfg.variant <;> simp [coarseWhereNeeded, hv]

theorem construct_of_configError {cfg : Config} {e : ConfigError} (h : configError cfg = some e) (ie : Bool)
    (bus : Option Responder) : construct cfg ie bus = .error e := by simp [construct, h]

theorem configError_lines {cfg : Config} (h : ¬ linesConnected cfg = true) :
    configError cfg = some .ctlLineUnconnected := if_pos (Bool.eq_false_iff.2 h)

theorem configError_coarse {cfg : Config} (hl : linesConnected cfg = true) (hc : ¬ coarseWhereNeeded cfg = true) :
    configError cfg = some .variantBNeedsCoarse := by simp [configError, hl, hc]

/-- Settles O1: the two conditions written out are the model's, and each of their four combinations has its verdict. -/
theorem constructionNeedsValidWiring : Obligations.ConstructionNeedsValidWiring := by
  intro cfg ie bus linesOk coarseOk
  have hlines : linesOk ↔ linesConnected cfg = true := linesConnected_iff.symm
  have hcoarse : coarseOk ↔ coarseWhereNeeded cfg = true := coarseWhereNeeded_iff.symm
  rw [hlines, hcoarse]
  refine ⟨?valid, ?lines, ?coarse, ?both, rfl, rfl⟩
  case valid =>
    rintro ⟨hl, hc⟩
    exact ⟨_, construct_of_valid (by simp [configValid, hl, hc]) ie bus, rfl⟩
  case lines => exact fun ⟨hl, _⟩ => construct_of_configError (configError_lines hl) ie bus
  case coarse => exact fun ⟨hl, hc⟩ => construct_of_configError (configError_coarse hl hc) ie bus
  case both => exact fun ⟨hl, _⟩ => ⟨_, construct_of_configError (configError_lines hl) ie bus⟩

/-! After a stop (R258, R264). -/

theorem step_stopped {s : State} (h : s.stop ≠ .run) : step s = .fault (.stopped s.stop) := by
  unfold step
  split
  next hc => rw [hc]
  next hc => rw [hc]
  next hrun => exact absurd hrun h

theorem exec_stopped {s : State} (h : s.stop ≠ .run) (i : Instr) : exec i s = .fault (.stopped s.stop) :=
  exec_eq i s ▸ command_stopped h

/-- Settles O6: `stop` is the first thing a step and a command look at. -/
theorem stoppedBlockHasNoStep : Obligations.StoppedBlockHasNoStep := fun _ h => ⟨step_stopped h, exec_stopped h⟩

/-! The stop itself (R253, R255, R262). -/

/-- Settles O7: the refused word leaves the port and the refusal writes `stop`. -/
theorem refusedWordOnlyStops : Obligations.RefusedWordOnlyStops := by
  intro s w more c hs hp hd
  have hstop : (refuse c (consume more s)).stop ≠ .run := nofun
  exact ⟨_, step_refused hs hp hd, rfl, responsePort_stopped hstop, step_stopped hstop⟩

/-- A command that stops the block has been refused or has faulted: no effect writes `stop`. -/
theorem exec_stops {i : Instr} {s t : State} (h : exec i s = .next t) (ht : t.stop ≠ .run) :
    t = { s with stop := t.stop } := by
  obtain ⟨hs, ⟨c, -, rfl⟩ | ⟨-, c, -, rfl⟩ | ⟨-, -, rfl⟩⟩ := exec_next h
  · rfl
  · rfl
  · exact absurd ((effect_stop i s).trans hs) ht

/-- A step that stops the block has refused its word or run the command that stops it: the host's own inputs do not
write `stop`. -/
theorem step_stops {s t : State} (h : step s = .next t) (ht : t.stop ≠ .run) :
    t = { s with port := t.port, stop := t.stop } := by
  obtain ⟨hs, rfl | ⟨b, more, rfl⟩ | ⟨c, more, rfl⟩ | ⟨i, more, hexec⟩⟩ := step_next h
  · exact absurd hs ht
  · exact absurd hs ht
  · rfl
  · rw [exec_stops hexec ht]
    rfl

/-- Settles O9: a stop writes `stop` alone, and a stopped block has neither a response nor a step. -/
theorem stopsArePrecise : Obligations.StopsArePrecise :=
  ⟨fun _ _ _ h ht => ⟨exec_stops h ht, responsePort_stopped ht, step_stopped ht⟩, fun _ _ h ht => step_stops h ht⟩

/-! Before BEGIN (R260). -/

/-- Only the checks of BEGIN, SETCA and GETCA do not open with NOT_BEGUN. -/
theorem faultOf_unbegun {i : Instr} {s : State} (h : s.init = false)
    (hi : ¬ ((∃ x, i = .setca x) ∨ i = .getca ∨ i = .begin)) : faultOf i s = some .notBegun := by
  cases i
  case setca x => exact absurd (.inl ⟨x, rfl⟩) hi
  case getca => exact absurd (.inr (.inl rfl)) hi
  case begin => exact absurd (.inr (.inr rfl)) hi
  all_goals exact afterBegun_unbegun h

/-- Settles O10: BEGIN, SETCA and GETCA have no check, and NOT_BEGUN is the first of every other command's. -/
theorem busCommandsNeedBegin : Obligations.BusCommandsNeedBegin := by
  intro i s hs hinit hw
  have hr : refusalOf i s = none := refusalOf_wellFormed hw
  refine ⟨fun hi => ?_, fun hi => exec_faults hs hr (faultOf_unbegun hinit hi)⟩
  have hf : faultOf i s = none := by obtain ⟨x, rfl⟩ | rfl | rfl := hi <;> rfl
  exact ⟨_, exec_completes hs hr hf, (effect_stop i s).trans hs⟩

end Sys2Proof.Machine
end

section
/-! PROOFS. The statements of 70_reset_and_hazards: discovery over a data line without a pin, and the number of events
each command emits. The events of a scan are those of its chain of WTRs. -/

namespace Sys2Proof.Machine

/-! FINDCA over a data line without a pin (R295). -/

/-- A WTR answers 0 on a line without a pin, so it never answers a sentinel that has a 1 there (R165). -/
theorem not_matchesAt_unconnected {s : State} {i : Fin 8} (hi : lineConnected s.cfg i = false)
    (hsentinel : s.cfg.scanSentinel.getLsbD i = true) (k : Nat) : ¬ matchesAt s k := by
  intro hm
  obtain ⟨v, hresp, hv⟩ := effect_answersZero (s := { wtrChain s k with ca := BitVec.ofNat 4 k })
    (by simpa using hi) (.inr (.inl ⟨s.cfg.scanReg, s.cfg.scanSentinel, rfl⟩))
  have hbyte : v = s.cfg.scanSentinel := Response.byte.inj (hresp.symm.trans hm)
  rw [hbyte, hsentinel] at hv
  cases hv

/-- Settles O32: none of the 16 candidates matches, so the scan ends with NOTFOUND. -/
theorem findcaBlindOnUnconnectedLine : Obligations.FindcaBlindOnUnconnectedLine := by
  intro s i hs hi hsentinel
  exact ⟨_, exec_atRest rfl hs,
    congrArg State.resp (discover_notFound fun k _ => not_matchesAt_unconnected hi hsentinel k)⟩

/-! The length of each piece of a trace. -/

@[simp] theorem length_edgeEvents (cfg : Config) (src dst : ModeCode) : (edgeEvents cfg src dst).length = 2 := rfl
@[simp] theorem length_pulseEvents : pulseEvents.length = 5 := rfl
@[simp] theorem length_readEntryEvents : readEntryEvents.length = 2 := rfl
@[simp] theorem length_readExitEvents : readExitEvents.length = 2 := rfl

@[simp] theorem length_busOutEvents (d : Byte) (dir : BusDir) :
    (busOutEvents d dir).length = if dir = .input then 2 else 1 := by cases dir <;> rfl

@[simp] theorem length_busInEvents (dir : BusDir) : (busInEvents dir).length = if dir = .input then 0 else 1 := by
  cases dir <;> rfl

/-- The latch path is four edges in Variant A and two in Variant B. -/
@[simp] theorem length_latchPathEvents (v : Variant) :
    (latchPathEvents v).length = if v = .a then 8 else 4 := by cases v <;> rfl

/-- With every data line connected a byte is eight samples (R163). -/
theorem length_sampleEvents {cfg : Config} (h : cfg.dataConn = 0xFF) (v : Byte) : (sampleEvents cfg v).length = 8 := by
  have hall : connectedLines cfg = dataLines := List.filter_eq_self.2 fun i _ => lineConnected_all h i
  rw [sampleEvents, List.length_map, hall]
  rfl

/-! How many events each effect emits (R302). -/

/-- The trace of `t` is longer than that of `s` by `a` events in Variant A, and by `b` in Variant B. -/
def emitted (a b : Nat) (s t : State) : Prop :=
  t.trace.length = s.trace.length + if s.cfg.variant = .a then a else b

/-- One count for both variants. -/
theorem emitted_both {n : Nat} {s t : State} : emitted n n s t ↔ t.trace.length = s.trace.length + n := by
  rw [emitted, ite_self]

/-- The counts of one command after another add up. -/
theorem emitted_trans {a b a' b' : Nat} {s t u : State} (hcfg : t.cfg = s.cfg) (ht : emitted a b s t)
    (hu : emitted a' b' t u) : emitted (a + a') (b + b') s u := by
  rw [emitted, hcfg, ht] at hu
  rw [emitted, hu]
  split_ifs <;> omega

/-- What a command whose checks pass emits, its effect emits. -/
theorem exec_emits {i : Instr} {s : State} {a b : Nat} (hs : s.stop = .run) (hr : refusalOf i s = none)
    (hf : faultOf i s = none) (h : emitted a b s (effectOf i s)) :
    ∃ t, exec i s = .next t ∧ t.stop = .run ∧ emitted a b s t :=
  ⟨_, exec_completes hs hr hf, (effect_stop i s).trans hs, h⟩

theorem begin_emits_first {s : State} (hr : s.cfg.resetConn = true) (hm : s.mode = none) :
    emitted 4 4 s (effectOf .begin s) := by
  simp [emitted_both, effectOf, initialise_eq, returnEvents, resetEvents, hr, hm]

theorem begin_emits_atRest {s : State} (hr : s.cfg.resetConn = true) (hm : s.mode = some rest) :
    emitted 3 3 s (effectOf .begin s) := by
  simp [emitted_both, effectOf, initialise_eq, resetEvents, hr, hm]

/-- A CTL and a MODE event (R130). -/
theorem edge_emits (src dst : ModeCode) (s : State) : emitted 2 2 s (respond .none (edgeStep src dst s)) := by
  simp [emitted_both]

/-- A CTL and a MODE event (R145). -/
theorem setmode_emits {m : ModeCode} {s : State} (hm : s.mode ≠ some m) :
    emitted 2 2 s (effectOf (.setmode m) s) := by
  simp [emitted_both, effectOf_setmode, coarseChange_eq hm]

theorem busout_emits_input {s : State} (hd : s.dbusDir = .input) (d : Byte) :
    emitted 2 2 s (effectOf (.busout d) s) := by simp [emitted_both, effectOf, busOut_eq, hd]

theorem busout_emits_output {s : State} (hd : s.dbusDir = .output) (d : Byte) :
    emitted 1 1 s (effectOf (.busout d) s) := by simp [emitted_both, effectOf, busOut_eq, hd]

theorem busin_emits_input {s : State} (hd : s.dbusDir = .input) : emitted 0 0 s (effectOf .busin s) := by
  simp [emitted_both, effectOf, busIn_eq, hd]

theorem busin_emits_output {s : State} (hd : s.dbusDir = .output) : emitted 1 1 s (effectOf .busin s) := by
  simp [emitted_both, effectOf, busIn_eq, hd]

theorem bussample_emits {s : State} (hconn : s.cfg.dataConn = 0xFF) : emitted 8 8 s (effectOf .bussample s) := by
  simp [emitted_both, effectOf, respondSampled, sampleByte_state, length_sampleEvents hconn]

/-! The transactions and FINDCA, from the bus IN. -/

section
variable {s : State} (hvalid : configValid s.cfg = true) (hd : s.dbusDir = .input)
include hvalid hd

theorem latch_emits (r : Nibble) : emitted 10 6 s (effectOf (.latch r) s) := by
  rw [emitted, effect_latch hvalid, hd]
  cases s.cfg.variant <;> simp

theorem write_emits (r : Nibble) (d : Byte) : emitted 19 15 s (effectOf (.write r d) s) := by
  rw [emitted, effect_write hvalid, hd]
  cases s.cfg.variant <;> simp

variable (hconn : s.cfg.dataConn = 0xFF)
include hconn

theorem read_emits (r : Nibble) : emitted 23 19 s (effectOf (.read r) s) := by
  rw [emitted, effect_read hvalid, hd]
  cases s.cfg.variant <;> simp [length_sampleEvents hconn]

theorem wtr_emits (r : Nibble) (d : Byte) : emitted 31 27 s (effectOf (.wtr r d) s) := by
  rw [emitted, effect_wtr hvalid, hd]
  cases s.cfg.variant <;> simp [length_sampleEvents hconn]

/-- Each WTR of the scan emits its own events, and leaves the bus IN for the next. -/
theorem wtrChain_emits (k : Nat) :
    emitted (31 * k) (27 * k) s (wtrChain s k) ∧ (wtrChain s k).dbusDir = .input := by
  induction k with
  | zero => exact ⟨emitted_both.2 rfl, hd⟩
  | succ k ih =>
    obtain ⟨hk, hdir⟩ := ih
    have hwtr : emitted 31 27 (wtrChain s k) (wtrChain s (k + 1)) :=
      wtr_emits (s := { wtrChain s k with ca := BitVec.ofNat 4 k }) (by simpa using hvalid) hdir
        (by simpa using hconn) s.cfg.scanReg s.cfg.scanSentinel
    exact ⟨emitted_trans (wtrChain_cfg s k) hk hwtr, by simp [wtrChain, effectOf, respondWtr, wtrBody_state]⟩

end

/-- The two ends of FINDCA: with the chip address of the candidate that matched after that candidate's WTR, or with
NOTFOUND after all 16. -/
theorem discover_ends (s : State) :
    (∃ k : Nibble, (discover s).resp = .found (k ++ 0#4) ∧ (discover s).trace = (wtrChain s (k.toNat + 1)).trace) ∨
      (discover s).resp = .notFound ∧ (discover s).trace = (wtrChain s 16).trace := by
  classical
  by_cases hmatch : ∃ k, k < 16 ∧ matchesAt s k
  · obtain ⟨hk, hm⟩ := Nat.find_spec hmatch
    have hfirst : ∀ j < Nat.find hmatch, ¬ matchesAt s j := fun j hj hj' =>
      Nat.find_min hmatch hj ⟨hj.trans hk, hj'⟩
    refine .inl ⟨BitVec.ofNat 4 (Nat.find hmatch), ?_⟩
    rw [discover_found hk hm hfirst, BitVec.toNat_ofNat, Nat.mod_eq_of_lt hk]
    exact ⟨rfl, rfl⟩
  · rw [discover_notFound fun k hk hm => hmatch ⟨k, hk, hm⟩]
    exact .inr ⟨rfl, rfl⟩

theorem found_inj {c k : Nibble} (h : Response.found (c ++ 0#4) = .found (k ++ 0#4)) : c = k := by
  obtain ⟨hc, -⟩ := address_parts c 0#4
  obtain ⟨hk, -⟩ := address_parts k 0#4
  rw [← hc, ← hk, Response.found.inj h]

/-- FINDCA emits the events of one WTR per candidate tried. -/
theorem findca_emits {s : State} (hvalid : configValid s.cfg = true) (hd : s.dbusDir = .input)
    (hconn : s.cfg.dataConn = 0xFF) :
    (∀ k : Nibble, (effectOf .findca s).resp = .found (k ++ 0#4) →
      emitted (31 * (k.toNat + 1)) (27 * (k.toNat + 1)) s (effectOf .findca s)) ∧
    ((effectOf .findca s).resp = .notFound → emitted 496 432 s (effectOf .findca s)) := by
  have hchain (n : Nat) (h : (discover s).trace = (wtrChain s n).trace) :
      emitted (31 * n) (27 * n) s (discover s) := by
    obtain ⟨hn, -⟩ := wtrChain_emits hvalid hd hconn n
    rwa [emitted, h]
  obtain ⟨c, hresp, htrace⟩ | ⟨hresp, htrace⟩ := discover_ends s
  · refine ⟨fun k hk => ?_, fun h => nomatch hresp.symm.trans h⟩
    obtain rfl := found_inj (hresp.symm.trans hk)
    exact hchain _ htrace
  · exact ⟨fun k hk => (nomatch hresp.symm.trans hk), fun _ => hchain 16 htrace⟩

/-! At REST no check stops BUSOUT or BUSIN. -/

theorem rest_not_pulse (v : Variant) : ¬ (rest = latchAddr v ∨ rest = 0b110#3) := by cases v <;> decide

theorem faultOf_busout_atRest {s : State} (hs : s.atRest) (d : Byte) : faultOf (.busout d) s = none := by
  obtain ⟨⟨-, hi⟩, hm⟩ := hs
  exact (afterBegun_begun hi).trans (busoutFault_none hm (by decide) (rest_not_pulse _))

theorem faultOf_busin_atRest {s : State} (hs : s.atRest) : faultOf .busin s = none := by
  obtain ⟨⟨-, hi⟩, hm⟩ := hs
  exact (afterBegun_begun hi).trans (businFault_none hm (rest_not_pulse _))

theorem faultOf_readEntry_atRest {s : State} (hs : s.atRest) (hd : s.dbusDir = .input) :
    faultOf .m010to011 s = none := by
  obtain ⟨⟨-, hi⟩, hm⟩ := hs
  have hphase : phaseCheck 0b011#3 s = none :=
    phaseCheck_passes (fun _ => hd) fun h => absurd rfl (pulse_ne_readData h.symm)
  exact (afterBegun_begun hi).trans ((xferFault_of_mode hm).trans hphase)

/-- The ten edge commands have the effect of an edge. -/
theorem effectOf_edge {i : Instr} (hi : i ∈ [Instr.m010to000, .m000to001, .m001to000, .m000to010, .m010to110,
    .m110to010, .m010to011, .m011to010, .m010to111, .m111to010]) :
    ∃ src dst, ∀ s, effectOf i s = respond .none (edgeStep src dst s) := by
  fin_cases hi <;> exact ⟨_, _, fun _ => rfl⟩

/-- Settles O44: row by row, what a command emits where it completes is what its effect emits. -/
theorem eventCounts : Obligations.EventCounts := by
  intro s hvalid hconn counts emits
  refine ⟨fun hs hr hm => exec_emits hs rfl rfl (begin_emits_first hr hm),
    fun hs hr hm => exec_emits hs rfl rfl (begin_emits_atRest hr hm),
    fun hs x => ⟨exec_emits hs rfl rfl (emitted_both.2 rfl), exec_emits hs rfl rfl (emitted_both.2 rfl)⟩,
    ?edge, ?setmode, ?busout, ?busin, ?bussample, ?output, ?input⟩
  case edge =>
    intro i hi t h hrun
    obtain ⟨-, rfl⟩ := exec_running h hrun
    obtain ⟨src, dst, heffect⟩ := effectOf_edge hi
    rw [heffect]
    exact edge_emits src dst s
  case setmode =>
    intro m t hm h hrun
    obtain ⟨-, rfl⟩ := exec_running h hrun
    exact setmode_emits hm
  case busout =>
    intro d t h hrun
    obtain ⟨-, rfl⟩ := exec_running h hrun
    exact ⟨fun hd => busout_emits_input hd d, fun hd => busout_emits_output hd d⟩
  case busin =>
    intro t h hrun
    obtain ⟨-, rfl⟩ := exec_running h hrun
    exact ⟨busin_emits_input, busin_emits_output⟩
  case bussample =>
    rintro ⟨hs, hi⟩ hd
    exact exec_emits hs rfl ((afterBegun_begun hi).trans (bussampleFault_input hd)) (bussample_emits hconn)
  case output =>
    intro hs hd
    have hrun : s.stop = .run := hs.1.1
    exact ⟨fun d => exec_emits hrun rfl (faultOf_busout_atRest hs d) (busout_emits_output hd d),
      exec_emits hrun rfl (faultOf_busin_atRest hs) (busin_emits_output hd)⟩
  case input =>
    intro hs hd
    have hrun : s.stop = .run := hs.1.1
    have htx {i : Instr} (hi : startsAtRest i = true) {a b : Nat} (h : emitted a b s (effectOf i s)) :
        emits i a b := ⟨_, exec_atRest hi hs, (effect_stop i s).trans hrun, h⟩
    exact ⟨fun d => exec_emits hrun rfl (faultOf_busout_atRest hs d) (busout_emits_input hd d),
      exec_emits hrun rfl (faultOf_busin_atRest hs) (busin_emits_input hd),
      exec_emits hrun (refusalOf_wellFormed rfl) (faultOf_readEntry_atRest hs hd) (edge_emits _ _ s),
      fun r => htx rfl (latch_emits hvalid hd r), fun r d => htx rfl (write_emits hvalid hd r d),
      fun r => htx rfl (read_emits hvalid hd hconn r), fun r d => htx rfl (wtr_emits hvalid hd hconn r d),
      _, exec_atRest rfl hs, (effect_stop .findca s).trans hrun, findca_emits hvalid hd hconn⟩

end Sys2Proof.Machine
end

section
/-! PROOFS. The statements of 10_state about one step and its start: what construction gives meets the invariant, a
presented word runs as the command it spells, and the host's own inputs. -/

namespace Sys2Proof.Machine

/-! The start of a run (R48). -/

/-- Before BEGIN the mode has no value and the bus is IN, so neither a pulse nor a driven bus is possible. -/
theorem busLegal_unbegun {s : State} (hi : s.init = false) (hm : s.mode = none) (hd : s.dbusDir = .input)
    (ho : s.dbusOut = none) : s.busLegal := by
  refine ⟨⟨fun _ => ⟨hm, hd, ho⟩, fun h => ?_⟩, fun _ _ _ => hd, fun m h _ => ?_, fun h => ?_⟩
  · rw [hi] at h; cases h
  · rw [hm] at h; cases h
  · rw [hd] at h; cases h

/-- What construction gives in a valid configuration meets the invariant where the memory that stands on the bus is
legal, whatever the host's interruptibility (R22, R48). -/
theorem inv_of_construct {cfg : Config} {ie : Bool} {bus : Option Responder} {s : State}
    (hvalid : configValid cfg = true) (h : construct cfg ie bus = .ok s) (hbus : s.memoryLegal) : s.Inv := by
  obtain rfl := Except.ok.inj ((construct_of_valid hvalid ie bus).symm.trans h)
  obtain ⟨hmode, hphase⟩ := busLegal_unbegun (s := { State.reset with cfg := cfg, hostIe := ie, responder := bus })
    rfl rfl rfl rfl
  exact ⟨hvalid, ⟨rfl, rfl, rfl⟩, hmode, hphase, hbus⟩

theorem configValid_a0 : configValid Config.a0 = true := rfl

/-- Settles O3: Config A0 is valid, so the reset state is its construction, and with no responder there is no memory
to ask about. -/
theorem resetIsConstructedAndLegal : Obligations.ResetIsConstructedAndLegal :=
  have h : construct Config.a0 true none = .ok State.reset := construct_of_valid configValid_a0 true none
  ⟨h, inv_of_construct configValid_a0 h nofun⟩

/-! One input of the host (R20, R30, R40). -/

/-- The word that the host presents is the one the next step takes from the port. -/
theorem consume_presentWord (w : Word) (s : State) : consume s.port (presentWord w s) = s := rfl

/-- A presented word that decodes is executed in the state in which it was presented. -/
theorem step_presentWord {s : State} {w : Word} {i : Instr} (hs : s.stop = .run) (hd : decode s.cfg w = .ok i) :
    step (presentWord w s) = exec i s := by
  have h : step (presentWord w s) = exec i (consume s.port (presentWord w s)) := step_command hs rfl hd
  rwa [consume_presentWord] at h

/-- Settles O5: an accepted word spells a command of the configuration, and a running step takes it from the port and
executes that command. -/
theorem stepRunsDecodedInstruction : Obligations.StepRunsDecodedInstruction :=
  ⟨fun s w _ i hs hp hd => ⟨(acceptedWordIsItsEncoding s.cfg w i hd).1, step_command hs hp hd⟩,
    fun _ _ _ _ hs hd => step_presentWord hs hd⟩

/-- Settles O8: the step on a change of `host_ie` writes that bit once the input has left the port, and a step with no
input is idle. -/
theorem hostInputsBetweenCommands : Obligations.HostInputsBetweenCommands :=
  ⟨fun _ _ _ hs hp => step_setIe hs hp, fun _ hs hp => step_idle hs hp⟩

end Sys2Proof.Machine
end
